-- ==== Sys2Proof/Word.lean ====
section
/-! DEFINITION. The word types of the trip-night CORE: 8-bit values, the 16-bit Address, the 16-bit
instruction word and the fields of that word (spec/00_scope.md R7, R13; spec/30_encoding.md R91). -/

namespace Sys2Proof

/-- A byte: a general register, a timer, a memory cell, the immediate NN (R7, R91). -/
abbrev Byte := BitVec 8

/-- The source's Address: the program counter, the index register, a call stack slot (R23, R26, R27). -/
abbrev Addr := BitVec 16

/-- One instruction word, the source's OpCode (R90). -/
abbrev Word := BitVec 16

/-- A register number, the field X or Y: every value 0..15 names a register (R20). -/
abbrev RegId := BitVec 4

/-- A four-bit field: the family F, the immediate N (R91). -/
abbrev Nibble := BitVec 4

/-- The 12-bit address field NNN (R91). -/
abbrev Addr12 := BitVec 12

/-- One framebuffer row: bit 63 is column 0, the leftmost (R30). -/
abbrev RowMask := BitVec 64

/-- Register 15, the flag register VF (R21). -/
def flagReg : RegId := 15

end Sys2Proof
end

