-- ==== Sys2Proof/Config.lean ====
section
/-! DEFINITION. What is fixed when the machine is constructed (SHIFT_QUIRK, FREQ, FONT; spec/00_scope.md R8 to
R10), and the free values: the inputs the host presents when the state lists none (R12). -/

namespace Sys2Proof

/-- SHIFT_QUIRK (R8). -/
inductive ShiftQuirk where
  | standard
  | legacy
  deriving DecidableEq, Repr

/-- The configuration latched at reset for the whole run (R8 to R10, R330). It is a field of State, so that a
statement about every state holds for every configuration (notes/assumptions/2.md, DEDUCED). -/
structure Config where
  /-- Which register the two shifts read (R8). -/
  shiftQuirk : ShiftQuirk
  /-- FREQ, any natural number (R9). -/
  freq : Nat
  /-- FONT, the 80 bytes memory holds at 0x50..0x9F at reset (R10, R34). -/
  font : Vector Byte 80
  deriving DecidableEq, Repr

/-- Glyphs 0 to 7 of the default FONT (R34). -/
def fontLow : List Byte :=
  [0xF0, 0x90, 0x90, 0x90, 0xF0] ++ [0x20, 0x60, 0x20, 0x20, 0x70] ++
  [0xF0, 0x10, 0xF0, 0x80, 0xF0] ++ [0xF0, 0x10, 0xF0, 0x10, 0xF0] ++
  [0x90, 0x90, 0xF0, 0x10, 0x10] ++ [0xF0, 0x80, 0xF0, 0x10, 0xF0] ++
  [0xF0, 0x80, 0xF0, 0x90, 0xF0] ++ [0xF0, 0x10, 0x20, 0x40, 0x40]

/-- Glyphs 8 to F of the default FONT (R34). -/
def fontHigh : List Byte :=
  [0xF0, 0x90, 0xF0, 0x90, 0xF0] ++ [0xF0, 0x90, 0xF0, 0x10, 0xF0] ++
  [0xF0, 0x90, 0xF0, 0x90, 0x90] ++ [0xE0, 0x90, 0xE0, 0x90, 0xE0] ++
  [0xF0, 0x80, 0x80, 0x80, 0xF0] ++ [0xE0, 0x90, 0x90, 0x90, 0xE0] ++
  [0xF0, 0x80, 0xF0, 0x80, 0xF0] ++ [0xF0, 0x80, 0xF0, 0x80, 0x80]

/-- The default FONT of R34. The spec takes its bytes from general knowledge (notes/assumptions/9.md). -/
def Config.defaultFont : Vector Byte 80 := ⟨⟨fontLow ++ fontHigh⟩, rfl⟩

/-- The configuration of `State.reset`: the one the vectors of spec/95_test_vectors.md use
(notes/assumptions/1.md, DESIGN CHOICE). -/
def Config.default : Config := ⟨.standard, 60, Config.defaultFont⟩

/-- The keypad vector of a step for which the state lists no input: free (R12, R258; notes/assumptions/3.md). -/
opaque Config.keysInput : Nat → BitVec 16

/-- The random byte of a step for which the state lists no input: free (R12, R259; notes/assumptions/3.md). -/
opaque Config.rndInput : Nat → Byte

end Sys2Proof
end

