-- ==== Sys2Proof/Machine/Flags.lean ====
section
/-! DEFINITION. The arithmetic of the register-pair group with its flag values (R163 to R169): operands are taken as
natural numbers, the result is narrowed at the end, and every flag is exactly 0 or 1 (R168). -/

namespace Sys2Proof.Machine

/-- A flag value (R21). -/
def flagOf (c : Bool) : Byte := if c then 1 else 0

/-- The sum modulo 256 (R152, R163). -/
def sumOf (a b : Byte) : Byte := BitVec.ofNat 8 (a.toNat + b.toNat)

/-- Carry: the unsigned sum exceeds 255 (R163). -/
def carryFlag (a b : Byte) : Byte := flagOf (decide (255 < a.toNat + b.toNat))

/-- The difference `a - b` modulo 256 (R164, R165). -/
def diffOf (a b : Byte) : Byte := BitVec.ofNat 8 (a.toNat + 256 - b.toNat)

/-- Not-borrow of `a - b`: `a >= b` (R164, R165). -/
def noBorrowFlag (a b : Byte) : Byte := flagOf (decide (b.toNat ≤ a.toNat))

/-- Shift right by one, bit 7 filled with 0 (R166). -/
def shiftedRight (v : Byte) : Byte := v >>> 1

/-- The bit a right shift drops: bit 0 (R166). -/
def rightOutFlag (v : Byte) : Byte := flagOf (v.getLsbD 0)

/-- Shift left by one, bit 0 filled with 0 (R167). -/
def shiftedLeft (v : Byte) : Byte := v <<< 1

/-- The bit a left shift drops: bit 7 (R167). -/
def leftOutFlag (v : Byte) : Byte := flagOf (v.getLsbD 7)

end Sys2Proof.Machine
end

