-- ==== Sys2Proof/Syntax.lean ====
section
/-! DEFINITION. The 34 instructions, one constructor per row of spec/opcode_table.json, in the slot order of
spec/30_encoding.md R100. Operands are the fields of R91 and R92, already extracted. -/

namespace Sys2Proof

/-- An instruction of the machine (R3, R100). The comment at a constructor gives its pattern and its rule. -/
inductive Instr where
  | clearScreen                                      -- 00E0, R210
  | ret                                              -- 00EE, R133 (Return)
  | jump (nnn : Addr12)                              -- 1NNN, R130
  | call (nnn : Addr12)                              -- 2NNN, R132
  | skipEqImm (x : RegId) (nn : Byte)                -- 3XNN, R134
  | skipNeImm (x : RegId) (nn : Byte)                -- 4XNN, R135
  /-- 5XY-, R136. The ignored low nibble is kept as `n`, so that every valid word is one term (R99). -/
  | skipEqReg (x y : RegId) (n : Nibble)
  | set (x : RegId) (nn : Byte)                      -- 6XNN, R150
  | addConst (x : RegId) (nn : Byte)                 -- 7XNN, R152
  | assign (x y : RegId)                             -- 8XY0, R151
  | or (x y : RegId)                                 -- 8XY1, R160
  | and (x y : RegId)                                -- 8XY2, R161
  | xor (x y : RegId)                                -- 8XY3, R162
  | add (x y : RegId)                                -- 8XY4, R163
  | sub (x y : RegId)                                -- 8XY5, R164
  | shiftRight (x y : RegId)                         -- 8XY6, R166
  | subN (x y : RegId)                               -- 8XY7, R165
  | shiftLeft (x y : RegId)                          -- 8XYE, R167
  /-- 9XY-, R137. The ignored low nibble is kept as `n` (R99). -/
  | skipNeReg (x y : RegId) (n : Nibble)
  | setIndex (nnn : Addr12)                          -- ANNN, R180
  | jumpOffset (nnn : Addr12)                        -- BNNN, R131
  | random (x : RegId) (nn : Byte)                   -- CXNN, R230
  | draw (x y : RegId) (n : Nibble)                  -- DXYN, R211
  | skipKey (x : RegId)                              -- EX9E, R234
  | skipNotKey (x : RegId)                           -- EXA1, R235
  | getDelay (x : RegId)                             -- FX07, R231
  | waitKey (x : RegId)                              -- FX0A, R236
  | setDelay (x : RegId)                             -- FX15, R232
  | setSound (x : RegId)                             -- FX18, R233
  | addIndex (x : RegId)                             -- FX1E, R181
  | fontChar (x : RegId)                             -- FX29, R182
  | storeBcd (x : RegId)                             -- FX33, R183
  | storeRegs (x : RegId)                            -- FX55, R184
  | loadRegs (x : RegId)                             -- FX65, R185
  deriving DecidableEq, Repr

/-- The slot number of an instruction in the dispatch table (R100, R103). -/
def Instr.slot : Instr → Fin 34
  | .clearScreen => 0
  | .ret => 1
  | .jump _ => 2
  | .call _ => 3
  | .skipEqImm _ _ => 4
  | .skipNeImm _ _ => 5
  | .skipEqReg _ _ _ => 6
  | .set _ _ => 7
  | .addConst _ _ => 8
  | .assign _ _ => 9
  | .or _ _ => 10
  | .and _ _ => 11
  | .xor _ _ => 12
  | .add _ _ => 13
  | .sub _ _ => 14
  | .shiftRight _ _ => 15
  | .subN _ _ => 16
  | .shiftLeft _ _ => 17
  | .skipNeReg _ _ _ => 18
  | .setIndex _ => 19
  | .jumpOffset _ => 20
  | .random _ _ => 21
  | .draw _ _ _ => 22
  | .skipKey _ => 23
  | .skipNotKey _ => 24
  | .getDelay _ => 25
  | .waitKey _ => 26
  | .setDelay _ => 27
  | .setSound _ => 28
  | .addIndex _ => 29
  | .fontChar _ => 30
  | .storeBcd _ => 31
  | .storeRegs _ => 32
  | .loadRegs _ => 33

end Sys2Proof
end

