-- ==== Sys2Proof/WellFormed.lean ====
section
/-! DEFINITION. The checks on data that come from outside the decoder. The operands of an `Instr` carry their
widths in their types (R20, R93), so every term of `Instr` is an instruction of the machine and no check of it
exists. What can be ill formed is a raw register number, a program image, and the assembler's canonical form. -/

namespace Sys2Proof

/-- The source's RegisterId made from a raw byte: it fails above 15 (spec/93_implementation_defined.md U8). The
decoder never meets the failure, since its fields are four bits wide (R20). -/
def RegId.ofRaw? (raw : Byte) : Option RegId :=
  if raw.toNat ≤ 15 then some (raw.setWidth 4) else none

/-- A program image fits above 0x200: at most 3584 bytes (R11, R331). A longer one is no legal reset. -/
def imageFits (image : List Byte) : Bool :=
  decide (image.length ≤ 3584)

/-- The form an assembler emits: the ignored low nibble of 5XY- and 9XY- is 0 (R99, R105). The hardware runs the
other forms as well; they are well-formed instructions, only not canonical. -/
def Instr.isCanonical : Instr → Bool
  | .skipEqReg _ _ n => n == 0
  | .skipNeReg _ _ n => n == 0
  | _ => true

/-- The canonical form of an instruction: the ignored nibble becomes 0 (R99). -/
def Instr.canonical : Instr → Instr
  | .skipEqReg x y _ => .skipEqReg x y 0
  | .skipNeReg x y _ => .skipNeReg x y 0
  | i => i

end Sys2Proof
end

