-- ==== Sys2Proof/Decode.lean ====
section
/-! DEFINITION. The decoder (spec/30_encoding.md R90 to R102), the encoder written from the same table, and the
opcode table itself as data (R100). -/

namespace Sys2Proof

/-! ### Fields of the word (R91) -/

/-- F, bits 15..12: the family. -/
def opF (w : Word) : Nibble := w.extractLsb' 12 4

/-- X, bits 11..8: operand register X. -/
def opX (w : Word) : RegId := w.extractLsb' 8 4

/-- Y, bits 7..4: operand register Y. -/
def opY (w : Word) : RegId := w.extractLsb' 4 4

/-- N, bits 3..0: 4-bit immediate. -/
def opN (w : Word) : Nibble := w.extractLsb' 0 4

/-- NN, bits 7..0: 8-bit immediate. -/
def opNN (w : Word) : Byte := w.extractLsb' 0 8

/-- NNN, bits 11..0: 12-bit address. -/
def opNNN (w : Word) : Addr12 := w.extractLsb' 0 12

/-! ### The decoder -/

/-- Why no instruction is read. The first four are the result `unknown` of R94, named by the family that found no
slot (R95 to R98); `truncated` is a byte list too short for one word (R90). -/
inductive DecodeError where
  | unknownFamily0
  | unknownFamily8
  | unknownFamilyE
  | unknownFamilyF
  | truncated
  deriving DecidableEq, Repr

/-- Family 0x0 discriminates on the full word (R95). -/
def decodeFamily0 (w : Word) : Except DecodeError Instr :=
  if w = 0x00E0 then .ok .clearScreen
  else if w = 0x00EE then .ok .ret
  else .error .unknownFamily0

/-- Family 0x8 discriminates on the low nibble N (R96). -/
def decodeFamily8 (w : Word) : Except DecodeError Instr :=
  match (opN w).toNat with
  | 0x0 => .ok (.assign (opX w) (opY w))
  | 0x1 => .ok (.or (opX w) (opY w))
  | 0x2 => .ok (.and (opX w) (opY w))
  | 0x3 => .ok (.xor (opX w) (opY w))
  | 0x4 => .ok (.add (opX w) (opY w))
  | 0x5 => .ok (.sub (opX w) (opY w))
  | 0x6 => .ok (.shiftRight (opX w) (opY w))
  | 0x7 => .ok (.subN (opX w) (opY w))
  | 0xE => .ok (.shiftLeft (opX w) (opY w))
  | _ => .error .unknownFamily8

/-- Family 0xE discriminates on the low byte NN (R97). -/
def decodeFamilyE (w : Word) : Except DecodeError Instr :=
  if opNN w = 0x9E then .ok (.skipKey (opX w))
  else if opNN w = 0xA1 then .ok (.skipNotKey (opX w))
  else .error .unknownFamilyE

/-- Family 0xF discriminates on the low byte NN, nine valid values (R98). -/
def decodeFamilyF (w : Word) : Except DecodeError Instr :=
  if opNN w = 0x07 then .ok (.getDelay (opX w))
  else if opNN w = 0x0A then .ok (.waitKey (opX w))
  else if opNN w = 0x15 then .ok (.setDelay (opX w))
  else if opNN w = 0x18 then .ok (.setSound (opX w))
  else if opNN w = 0x1E then .ok (.addIndex (opX w))
  else if opNN w = 0x29 then .ok (.fontChar (opX w))
  else if opNN w = 0x33 then .ok (.storeBcd (opX w))
  else if opNN w = 0x55 then .ok (.storeRegs (opX w))
  else if opNN w = 0x65 then .ok (.loadRegs (opX w))
  else .error .unknownFamilyF

/-- The two-level decoder: branch on the family, then, for four families, on a second discriminant (R94, R99). It
is total and depends on nothing but the word. The last arm is family 0xF. -/
def decode (w : Word) : Except DecodeError Instr :=
  match (opF w).toNat with
  | 0x0 => decodeFamily0 w
  | 0x1 => .ok (.jump (opNNN w))
  | 0x2 => .ok (.call (opNNN w))
  | 0x3 => .ok (.skipEqImm (opX w) (opNN w))
  | 0x4 => .ok (.skipNeImm (opX w) (opNN w))
  | 0x5 => .ok (.skipEqReg (opX w) (opY w) (opN w))
  | 0x6 => .ok (.set (opX w) (opNN w))
  | 0x7 => .ok (.addConst (opX w) (opNN w))
  | 0x8 => decodeFamily8 w
  | 0x9 => .ok (.skipNeReg (opX w) (opY w) (opN w))
  | 0xA => .ok (.setIndex (opNNN w))
  | 0xB => .ok (.jumpOffset (opNNN w))
  | 0xC => .ok (.random (opX w) (opNN w))
  | 0xD => .ok (.draw (opX w) (opY w) (opN w))
  | 0xE => decodeFamilyE w
  | _ => decodeFamilyF w

/-- The word two bytes spell: big-endian, the byte at the lower address is bits 15..8 (R65). -/
def wordOfBytes (hi lo : Byte) : Word := hi ++ lo

/-- The two bytes of a word in address order (R65). -/
def bytesOfWord (w : Word) : List Byte := [w.extractLsb' 8 8, w.extractLsb' 0 8]

/-- Decode one instruction from bytes in address order and return the bytes that follow it (R90). -/
def decodeBytes : List Byte → Except DecodeError (Instr × List Byte)
  | hi :: lo :: rest => (decode (wordOfBytes hi lo)).map fun i => (i, rest)
  | _ => .error .truncated

/-- The word of an opcode table row: `w` numbered as the table numbers it, bits above `nbits` zero. -/
def tableWord (nbits w : Nat) : Word := BitVec.ofNat 16 (w % 2 ^ nbits)

/-- What the decoder reads from a table row's word laid out in memory as the hardware stores it. -/
def decodeTableWord (nbits w : Nat) : Option Instr :=
  match decodeBytes (bytesOfWord (tableWord nbits w)) with
  | .ok (i, _) => some i
  | .error _ => none

/-! ### The encoder: the formats of R92 and the patterns of R100 -/

/-- Format A: F[4] NNN[12]. -/
def wordA (f : Nibble) (nnn : Addr12) : Word := f ++ nnn

/-- Formats XI and XS: F[4] X[4] NN[8]. -/
def wordXI (f : Nibble) (x : RegId) (nn : Byte) : Word := f ++ x ++ nn

/-- Formats XY and XYN: F[4] X[4] Y[4] N[4]. -/
def wordXYN (f : Nibble) (x y : RegId) (n : Nibble) : Word := f ++ x ++ y ++ n

/-- The word of an instruction (R100). -/
def encode : Instr → Word
  | .clearScreen => 0x00E0
  | .ret => 0x00EE
  | .jump nnn => wordA 0x1 nnn
  | .call nnn => wordA 0x2 nnn
  | .skipEqImm x nn => wordXI 0x3 x nn
  | .skipNeImm x nn => wordXI 0x4 x nn
  | .skipEqReg x y n => wordXYN 0x5 x y n
  | .set x nn => wordXI 0x6 x nn
  | .addConst x nn => wordXI 0x7 x nn
  | .assign x y => wordXYN 0x8 x y 0x0
  | .or x y => wordXYN 0x8 x y 0x1
  | .and x y => wordXYN 0x8 x y 0x2
  | .xor x y => wordXYN 0x8 x y 0x3
  | .add x y => wordXYN 0x8 x y 0x4
  | .sub x y => wordXYN 0x8 x y 0x5
  | .shiftRight x y => wordXYN 0x8 x y 0x6
  | .subN x y => wordXYN 0x8 x y 0x7
  | .shiftLeft x y => wordXYN 0x8 x y 0xE
  | .skipNeReg x y n => wordXYN 0x9 x y n
  | .setIndex nnn => wordA 0xA nnn
  | .jumpOffset nnn => wordA 0xB nnn
  | .random x nn => wordXI 0xC x nn
  | .draw x y n => wordXYN 0xD x y n
  | .skipKey x => wordXI 0xE x 0x9E
  | .skipNotKey x => wordXI 0xE x 0xA1
  | .getDelay x => wordXI 0xF x 0x07
  | .waitKey x => wordXI 0xF x 0x0A
  | .setDelay x => wordXI 0xF x 0x15
  | .setSound x => wordXI 0xF x 0x18
  | .addIndex x => wordXI 0xF x 0x1E
  | .fontChar x => wordXI 0xF x 0x29
  | .storeBcd x => wordXI 0xF x 0x33
  | .storeRegs x => wordXI 0xF x 0x55
  | .loadRegs x => wordXI 0xF x 0x65

/-! ### The opcode table as data (R100) -/

/-- One row: a word `op` selects it when `op & mask = bits`. -/
structure OpcodeRow where
  mnemonic : String
  mask : Word
  bits : Word
  deriving DecidableEq, Repr

/-- Slots 0 to 17 of R100. -/
def opcodeRowsLow : List OpcodeRow :=
  [⟨"ClearScreen", 0xFFFF, 0x00E0⟩, ⟨"Return", 0xFFFF, 0x00EE⟩, ⟨"Jump", 0xF000, 0x1000⟩,
   ⟨"Call", 0xF000, 0x2000⟩, ⟨"SkipEqImm", 0xF000, 0x3000⟩, ⟨"SkipNeImm", 0xF000, 0x4000⟩,
   ⟨"SkipEqReg", 0xF000, 0x5000⟩, ⟨"Set", 0xF000, 0x6000⟩, ⟨"AddConst", 0xF000, 0x7000⟩,
   ⟨"Assign", 0xF00F, 0x8000⟩, ⟨"Or", 0xF00F, 0x8001⟩, ⟨"And", 0xF00F, 0x8002⟩, ⟨"Xor", 0xF00F, 0x8003⟩,
   ⟨"Add", 0xF00F, 0x8004⟩, ⟨"Sub", 0xF00F, 0x8005⟩, ⟨"ShiftRight", 0xF00F, 0x8006⟩,
   ⟨"SubN", 0xF00F, 0x8007⟩, ⟨"ShiftLeft", 0xF00F, 0x800E⟩]

/-- Slots 18 to 33 of R100. -/
def opcodeRowsHigh : List OpcodeRow :=
  [⟨"SkipNeReg", 0xF000, 0x9000⟩, ⟨"SetIndex", 0xF000, 0xA000⟩, ⟨"JumpOffset", 0xF000, 0xB000⟩,
   ⟨"Random", 0xF000, 0xC000⟩, ⟨"Draw", 0xF000, 0xD000⟩, ⟨"SkipKey", 0xF0FF, 0xE09E⟩,
   ⟨"SkipNotKey", 0xF0FF, 0xE0A1⟩, ⟨"GetDelay", 0xF0FF, 0xF007⟩, ⟨"WaitKey", 0xF0FF, 0xF00A⟩,
   ⟨"SetDelay", 0xF0FF, 0xF015⟩, ⟨"SetSound", 0xF0FF, 0xF018⟩, ⟨"AddIndex", 0xF0FF, 0xF01E⟩,
   ⟨"FontChar", 0xF0FF, 0xF029⟩, ⟨"StoreBcd", 0xF0FF, 0xF033⟩, ⟨"StoreRegs", 0xF0FF, 0xF055⟩,
   ⟨"LoadRegs", 0xF0FF, 0xF065⟩]

/-- The 34 rows in slot order (R100, R103). -/
def opcodeTable : List OpcodeRow := opcodeRowsLow ++ opcodeRowsHigh

/-- The row of a slot. -/
def opcodeRow (k : Fin 34) : OpcodeRow := opcodeTable[k.val]'(lt_of_lt_of_eq k.isLt rfl)

/-- The instruction's mnemonic, as the table spells it. -/
def Instr.mnemonic (i : Instr) : String := (opcodeRow i.slot).mnemonic

/-- A word selects a row (R100). -/
def OpcodeRow.selects (r : OpcodeRow) (w : Word) : Prop := w &&& r.mask = r.bits

end Sys2Proof
end

