-- ==== Sys2Proof/Machine/Memory.lean ====
section
/-! DEFINITION. The memory array (spec/20_memory.md R60 to R63) as a sorted list of the cells that differ from the
reset contents. -/

namespace Sys2Proof.Machine

/-- The number of bytes of memory (R60). -/
def memorySize : Nat := 4096

/-- Memory: the cells whose byte differs from `resetByte`, addresses strictly rising. -/
abbrev Memory := List Host.Cell

/-- What an address no cell lists reads as: the reset contents with an empty image, FONT at 0x50..0x9F and zero
elsewhere (R35, R61). -/
def resetByte (font : Vector Byte 80) (a : Nat) : Byte :=
  if h : 0x50 ≤ a ∧ a < 0xA0 then font[a - 0x50]'(by omega) else 0

/-- The byte a cell lists for an address. -/
def Memory.find (a : Nat) : Memory → Option Byte
  | [] => none
  | (c, v) :: m => if c = a then some v else Memory.find a m

/-- Drop the cells of an address. -/
def Memory.erase (a : Nat) : Memory → Memory
  | [] => []
  | (c, v) :: m => if c = a then Memory.erase a m else (c, v) :: Memory.erase a m

/-- List a byte at an address, in address order. -/
def Memory.insert (a : Nat) (b : Byte) : Memory → Memory
  | [] => [(a, b)]
  | (c, v) :: m =>
    if c < a then (c, v) :: Memory.insert a b m
    else if c = a then (a, b) :: m
    else (a, b) :: (c, v) :: m

/-- `mem[a]` (R62). -/
def Memory.read (font : Vector Byte 80) (m : Memory) (a : Nat) : Byte :=
  (m.find a).getD (resetByte font a)

/-- `mem[a] <- b` (R63), keeping the canonical form: a byte equal to the reset contents is not listed. -/
def Memory.write (font : Vector Byte 80) (m : Memory) (a : Nat) (b : Byte) : Memory :=
  if b = resetByte font a then m.erase a else m.insert a b

/-- Every cell lies above `lo`, below 4096, in rising order, and differs from the reset contents. -/
def Memory.wfFrom (font : Vector Byte 80) : Nat → Memory → Bool
  | _, [] => true
  | lo, (c, v) :: m =>
    decide (lo ≤ c) && decide (c < memorySize) && decide (v ≠ resetByte font c) && Memory.wfFrom font (c + 1) m

/-- The canonical form. -/
def Memory.wf (font : Vector Byte 80) (m : Memory) : Bool := Memory.wfFrom font 0 m

/-- Write bytes at consecutive addresses, ascending (R68). -/
def Memory.writeList (font : Vector Byte 80) (m : Memory) (a : Nat) : List Byte → Memory
  | [] => m
  | b :: bs => Memory.writeList font (m.write font a b) (a + 1) bs

/-- Read `n` bytes at consecutive addresses, ascending (R68). -/
def Memory.readList (font : Vector Byte 80) (m : Memory) (a : Nat) : Nat → List Byte
  | 0 => []
  | n + 1 => m.read font a :: Memory.readList font m (a + 1) n

end Sys2Proof.Machine
end

