-- ==== Sys2Proof/Machine/Screen.lean ====
section
/-! DEFINITION. The framebuffer controller, all of its primitives (spec/44_display.md R200 to R209). Pixel (x, y) is
bit `63 - x` of row y (R30). -/

namespace Sys2Proof.Machine

/-- The source's Screen: 32 rows of 64 pixels and the changed flag (R30). -/
structure Screen where
  /-- `row[0..31]`. -/
  row : Vector RowMask 32
  /-- "changed since last check". -/
  changed : Bool
  deriving DecidableEq, Repr

/-- Column reduction (R200). -/
def colOf (x : Nat) : Nat := x % 64

/-- `row[y mod 32]` (R200). -/
def Screen.rowAt (scr : Screen) (y : Nat) : RowMask := scr.row[y % 32]'(Nat.mod_lt _ (by decide))

/-- `row[y mod 32] <- v; changed <- 1`: the common end of every mutating primitive on one row (R202 to R204). -/
def Screen.putRow (scr : Screen) (y : Nat) (v : RowMask) : Screen :=
  { row := scr.row.set (y % 32) v (Nat.mod_lt _ (by decide)), changed := true }

/-- The one-bit mask of a column, `1 << (63 - x')` (R202). -/
def pixelMask (x : Nat) : RowMask := (1 : RowMask) <<< (63 - colOf x)

/-- The row mask of an 8-bit pattern: `(zext_64(p) << 56) >> x'` (R201). -/
def patternMask (p : Byte) (x : Nat) : RowMask := ((p.setWidth 64) <<< 56) >>> colOf x

/-- `setPixel(x, y)` (R202). -/
def Screen.setPixel (scr : Screen) (x y : Nat) : Screen := scr.putRow y (scr.rowAt y ||| pixelMask x)

/-- `unsetPixel(x, y)` (R202). -/
def Screen.unsetPixel (scr : Screen) (x y : Nat) : Screen := scr.putRow y (scr.rowAt y &&& ~~~pixelMask x)

/-- `flipPixel(x, y)` (R202). -/
def Screen.flipPixel (scr : Screen) (x y : Nat) : Screen := scr.putRow y (scr.rowAt y ^^^ pixelMask x)

/-- `setVectored(p, x, y)` (R203). -/
def Screen.setVectored (scr : Screen) (p : Byte) (x y : Nat) : Screen :=
  scr.putRow y (scr.rowAt y ||| patternMask p x)

/-- `unsetVectored(p, x, y)` (R203). -/
def Screen.unsetVectored (scr : Screen) (p : Byte) (x y : Nat) : Screen :=
  scr.putRow y (scr.rowAt y &&& ~~~patternMask p x)

/-- The collision bit of `flipVectored`, from the state before the XOR (R204). -/
def Screen.collides (scr : Screen) (p : Byte) (x y : Nat) : Bool :=
  decide (scr.rowAt y &&& patternMask p x ≠ 0)

/-- `flipVectored(p, x, y)`: the returned bit and the new screen (R204). -/
def Screen.flipVectored (scr : Screen) (p : Byte) (x y : Nat) : Bool × Screen :=
  (scr.collides p x y, scr.putRow y (scr.rowAt y ^^^ patternMask p x))

/-- `getPixel(x, y)` (R205). -/
def Screen.getPixel (scr : Screen) (x y : Nat) : Bool := (scr.rowAt y).getLsbD (63 - colOf x)

/-- `getVectored(x, y)`: columns past 63 read 0 (R205). -/
def Screen.getVectored (scr : Screen) (x y : Nat) : Byte := ((scr.rowAt y <<< colOf x) >>> 56).setWidth 8

/-- `clear()` (R206). -/
def Screen.clear (_ : Screen) : Screen := { row := Vector.replicate 32 0, changed := true }

/-- `isChanged()` (R207). -/
def Screen.isChanged (scr : Screen) : Bool := scr.changed

/-- `resetChangedFlag()` (R207). -/
def Screen.resetChangedFlag (scr : Screen) : Screen := { scr with changed := false }

/-- The host's read-out: all 2048 pixels in row-major order with their coordinates (R209). -/
def Screen.scan (scr : Screen) : List (Nat × Nat × Bool) :=
  (List.range 32).flatMap fun y => (List.range 64).map fun x => (x, y, scr.getPixel x y)

/-- Flip the rows of a sprite in order, top row first, and collect the collision bit (the loop of R211). -/
def Screen.drawRows (scr : Screen) (x y : Nat) : List Byte → Bool × Screen
  | [] => (false, scr)
  | p :: ps =>
    let first := scr.flipVectored p x y
    let rest := Screen.drawRows first.2 x (y + 1) ps
    (first.1 || rest.1, rest.2)

end Sys2Proof.Machine
end

