-- ==== Sys2Proof/Machine/State.lean ====
section
/-! DEFINITION. The state of the machine (spec/10_state.md R20 to R33), the reasons a step could stop, and the state
after reset (R35). -/

namespace Sys2Proof.Machine

/-- Reasons for a step to end outside a next state. There are none: the four faults of R290 are latched in State and
the machine answers a next state (R295, R296; notes/assumptions/5.md, DEDUCED, safe). No meaning and no step ever
answers `Host.Outcome.fault`. -/
inductive Fault where
  deriving DecidableEq, Repr

/-- Reasons to refuse an instruction. -/
inductive Refusal where
  /-- Raised by an arm of `exec` whose instruction has no meaning yet. Safe: nothing is claimed of it. No arm of this
  model raises it. -/
  | notModelled (mnemonic : String)
  deriving DecidableEq, Repr

/-- `status` (R31). -/
inductive Status where
  | run
  | fault
  deriving DecidableEq, Repr

/-- `fault_cause` (R31, R291): no fault, or one of the four faults of R290. -/
inductive FaultCause where
  /-- Code 0: no fault latched. -/
  | none
  /-- Code 1: the decoder rejects the word (R292). -/
  | unknownInstruction
  /-- Code 2: Call with sp = 16 (R293). -/
  | stackExhaustion
  /-- Code 3: Return with sp = 0 (R293). -/
  | stackUnderflow
  /-- Code 4: an access above 4095, or AddIndex past 0xFFFF (R294). -/
  | memoryRangeViolation
  deriving DecidableEq, Repr

/-- The inputs the host presents for one step (R12, R258, R259). -/
structure StepInput where
  keys : BitVec 16
  rnd : Byte
  deriving DecidableEq, Repr

/-- Everything the machine holds between steps. -/
structure State where
  /-- `x[0..15]`, the general registers (R20, R21). -/
  x : Vector Byte 16
  /-- The program counter (R23). -/
  pc : Addr
  /-- `I`, the index register (R26). -/
  idx : Addr
  /-- The stack pointer, 0..16 (R27). -/
  sp : Fin 17
  /-- The call stack slots (R27). -/
  stack : Vector Addr 16
  /-- `DT`, the delay timer (R28). -/
  dt : Byte
  /-- `ST`, the sound timer (R28). -/
  st : Byte
  /-- `mem[0..4095]` (R32). -/
  mem : Memory
  /-- `row[0..31]` and `changed` (R30). -/
  screen : Screen
  /-- The cycle counter (R29). -/
  cyc : BitVec 64
  /-- `status` (R31). -/
  status : Status
  /-- `fault_cause` (R31). -/
  faultCause : FaultCause
  /-- `fault_addr` (R31). -/
  faultAddr : Addr
  /-- `fault_word` (R31). -/
  faultWord : Word
  /-- SHIFT_QUIRK, FREQ and FONT, latched at reset (R330). -/
  cfg : Config
  /-- The `keys` port as presented for the step in progress, or for the last one (R258). -/
  keys : BitVec 16
  /-- The `rnd` port as presented for the step in progress, or for the last one (R259). -/
  rnd : Byte
  /-- The `rnd_take` output: the last step consumed `rnd` (R259). -/
  rndTake : Bool
  /-- The model's own: inputs the host will present for the coming steps, the next one first
  (notes/assumptions/3.md). -/
  pending : List StepInput
  /-- The model's own: how many steps took their inputs from the free values (notes/assumptions/3.md). -/
  draws : Nat
  deriving DecidableEq, Repr

/-- The machine right after reset with the default configuration and an empty image (R35, R330, R331). -/
def State.reset : State where
  x := Vector.replicate 16 0
  pc := 0x200
  idx := 0
  sp := 0
  stack := Vector.replicate 16 0
  dt := 0
  st := 0
  mem := []
  screen := { row := Vector.replicate 32 0, changed := false }
  cyc := 0
  status := .run
  faultCause := .none
  faultAddr := 0
  faultWord := 0
  cfg := Config.default
  keys := 0
  rnd := 0
  rndTake := false
  pending := []
  draws := 0

/-- The outcome of an instruction or of a step. -/
abbrev Result := Host.Outcome State Fault Refusal

end Sys2Proof.Machine
end

