-- ==== Sys2Proof/Machine/Ops.lean ====
section
/-! DEFINITION. The named operations over registers, memory, the call stack and the framebuffer, fault entry, the
phases of a step before execution, reset with a program image, and the host's ports. -/

namespace Sys2Proof.Machine

/-! ### Registers -/

/-- `x[r]` (R20). -/
def State.reg (s : State) (r : RegId) : Byte := s.x[r.toNat]'r.isLt

/-- `x[r] <- v` (R20). -/
def State.setReg (s : State) (r : RegId) (v : Byte) : State := { s with x := s.x.set r.toNat v r.isLt }

/-- Write the result register, then the flag register, so that with X = 15 the flag remains (R15). -/
def State.setRegFlag (s : State) (r : RegId) (v flag : Byte) : State := (s.setReg r v).setReg flagReg flag

/-- `pc <- a` (R23). -/
def State.setPc (s : State) (a : Addr) : State := { s with pc := a }

/-- `I <- a` (R26). -/
def State.setIndex (s : State) (a : Addr) : State := { s with idx := a }

/-- `DT <- v` (R28). -/
def State.setDelay (s : State) (v : Byte) : State := { s with dt := v }

/-- `ST <- v` (R28). -/
def State.setSound (s : State) (v : Byte) : State := { s with st := v }

/-- `rnd_take <- 1`: the byte of this step is consumed (R230, R259). -/
def State.takeRnd (s : State) : State := { s with rndTake := true }

/-- Replace the framebuffer (R30). -/
def State.setScreen (s : State) (scr : Screen) : State := { s with screen := scr }

/-- Registers `k`, `k + 1`, ... receive the bytes in order (the loop of R185). -/
def State.setRegsFrom (s : State) (k : Nat) : List Byte → State
  | [] => s
  | b :: bs => State.setRegsFrom (s.setReg (BitVec.ofNat 4 k) b) (k + 1) bs

/-- The values of registers 0 to X, ascending (the loop of R184). -/
def State.regsUpTo (s : State) (x : RegId) : List Byte :=
  (List.range (x.toNat + 1)).map fun k => s.reg (BitVec.ofNat 4 k)

/-- A skip: `pc <- pc + 2` when the condition holds (R134 to R137, R234, R235). -/
def State.skipIf (s : State) (c : Bool) : State := if c then s.setPc (s.pc + 2) else s

/-! ### Memory -/

/-- `mem[a]` (R60). -/
def State.byteAt (s : State) (a : Nat) : Byte := s.mem.read s.cfg.font a

/-- All of the `n` addresses from `base` are valid; no address is checked when `n` is 0 (R62, R64, R211). -/
def inRange (base n : Nat) : Bool := decide (n = 0 ∨ base + n - 1 ≤ 4095)

/-- The `n` bytes from `base`, or none when the range leaves memory (R62, R64). -/
def State.loadBytes (s : State) (base n : Nat) : Option (List Byte) :=
  if inRange base n then some (s.mem.readList s.cfg.font base n) else none

/-- Write bytes from `base` upward, or none, with nothing written, when the range leaves memory (R63, R64). -/
def State.storeBytes (s : State) (base : Nat) (bs : List Byte) : Option State :=
  if inRange base bs.length then some { s with mem := s.mem.writeList s.cfg.font base bs } else none

/-- `MemRead(a, 2)`: the big-endian word at `a`, or none when it leaves memory (R62, R65). -/
def State.memRead2 (s : State) (a : Nat) : Option Word :=
  if inRange a 2 then some (wordOfBytes (s.byteAt a) (s.byteAt (a + 1))) else none

/-! ### The call stack (R27) -/

/-- Push an address, or none when the stack holds 16 (R132). -/
def State.push (s : State) (a : Addr) : Option State :=
  if h : s.sp.val < 16 then
    some { s with stack := s.stack.set s.sp.val a h, sp := ⟨s.sp.val + 1, by omega⟩ }
  else none

/-- Pop the newest address, or none when the stack is empty; the slot keeps its contents (R133). -/
def State.pop (s : State) : Option (Addr × State) :=
  if h : 0 < s.sp.val then
    some (s.stack[s.sp.val - 1]'(by omega), { s with sp := ⟨s.sp.val - 1, by omega⟩ })
  else none

/-! ### Fault entry (R295). There is no return from a fault: only reset leaves it (R296). -/

/-- The 3-bit code of a cause (R291). -/
def FaultCause.code : FaultCause → BitVec 3
  | .none => 0
  | .unknownInstruction => 1
  | .stackExhaustion => 2
  | .stackUnderflow => 3
  | .memoryRangeViolation => 4

/-- Latch a fault: the cause, the address of the instruction and its word. Nothing else is written and control goes
nowhere (R295). -/
def State.raise (s : State) (c : FaultCause) (addr : Addr) (word : Word) : State :=
  { s with status := .fault, faultCause := c, faultAddr := addr, faultWord := word }

/-- `pc_i`, the address of the instruction in its execute phase (R14, R254). -/
def State.instrAddr (s : State) : Addr := s.pc - 2

/-- A fault raised by an instruction: `fault_addr` is `pc_i`, `fault_word` its word (R291, R295). -/
def State.raiseBy (s : State) (i : Instr) (c : FaultCause) : State := s.raise c s.instrAddr (encode i)

/-! ### The step before its execute phase (R250 to R254) -/

/-- The host presents the inputs of this step: the next listed ones, or free values (R12, R258, R259;
notes/assumptions/3.md). -/
def State.sampleInputs (s : State) : State :=
  match s.pending with
  | inp :: rest => { s with keys := inp.keys, rnd := inp.rnd, pending := rest }
  | [] => { s with keys := Config.keysInput s.draws, rnd := Config.rndInput s.draws, draws := s.draws + 1 }

/-- `max(FREQ div 60, 1)` (R252). -/
def tickModulus (cfg : Config) : Nat := max (cfg.freq / 60) 1

/-- A timer counts down and stops at 0 (R28, R252). -/
def countDown (t : Byte) : Byte := if t = 0 then 0 else t - 1

/-- Phase 1: count the step, then tick both timers on the schedule (R251, R252). -/
def State.tick (s : State) : State :=
  let cyc := s.cyc + 1
  if cyc.toNat % tickModulus s.cfg = 0 then
    { s with cyc := cyc, dt := countDown s.dt, st := countDown s.st }
  else { s with cyc := cyc }

/-- Phase 2: clear the changed flag (R207); the strobe of the last step ends (R259). -/
def State.clearChanged (s : State) : State :=
  { s with screen := s.screen.resetChangedFlag, rndTake := false }

/-- What a running step does before its fetch. -/
def State.beginStep (s : State) : State := s.sampleInputs.tick.clearChanged

/-- Phase 3, the fetch: `MemRead(pc, 2)` (R253). -/
def State.fetch (s : State) : Option Word := s.memRead2 s.pc.toNat

/-- Phase 3, the advance: `pc <- pc_i + 2` (R254). -/
def State.advance (s : State) : State := s.setPc (s.pc + 2)

/-- The fault of a fetch above memory: `pc` is not advanced and `fault_word` is 0 (R253, R294). -/
def State.fetchFault (s : State) : State := s.raise .memoryRangeViolation s.pc 0

/-- The fault of a word the decoder rejects, after the advance (R255, R292). -/
def State.unknownFault (s : State) (op : Word) : State := s.raise .unknownInstruction s.instrAddr op

/-! ### Construction (R330, R331) -/

/-- Reset with a configuration and a program image; none for an image that does not fit (R331). -/
def State.construct (cfg : Config) (image : List Byte) : Option State :=
  if imageFits image then
    some { State.reset with cfg := cfg, mem := Memory.writeList cfg.font [] 0x200 image }
  else none

/-- The fault latch of a faulted state cleared, as reset leaves it; a running state is left alone. -/
def State.clearLatch (s : State) : State :=
  match s.status with
  | .run => s
  | .fault => { s with status := .run, faultCause := .none, faultAddr := 0, faultWord := 0 }

/-- A state in which the next step fetches: no fault latched, `pc` on a fetchable address (notes/assumptions/10.md). -/
def State.readyToFetch (s : State) : State :=
  if inRange s.pc.toNat 2 then s.clearLatch else s.clearLatch.setPc 0x200

/-- Place a word where the next step fetches (the load of a program, R330). -/
def State.placeWord (s : State) (w : Word) : State :=
  let s := s.readyToFetch
  { s with mem := s.mem.writeList s.cfg.font s.pc.toNat (bytesOfWord w) }

/-! ### Ports (R257, R260, R261) -/

/-- `beep` (R260). -/
def State.beep (s : State) : Bool := decide (s.st ≠ 0)

/-- `pixel(x, y)` (R261). -/
def State.pixel (s : State) (x y : Nat) : Bool := s.screen.getPixel x y

/-- `changed` (R261). -/
def State.changedPort (s : State) : Bool := s.screen.isChanged

/-- `rnd_take` (R259). -/
def State.rndTakePort (s : State) : Bool := s.rndTake

/-- `fault`: status, cause code, address and word, 1 + 3 + 16 + 16 bits (R257). -/
def State.faultPort (s : State) : BitVec 1 × BitVec 3 × Addr × Word :=
  ((match s.status with | .run => 0 | .fault => 1), s.faultCause.code, s.faultAddr, s.faultWord)

end Sys2Proof.Machine
end

