-- ==== Sys2Proof/Machine/Operands.lean ====
section
/-! DEFINITION. Every operand form the instructions use (R93, R186): registers by number, immediates zero-extended,
the index register plus an offset, low nibbles of register values, the shifted operand under the quirk. -/

namespace Sys2Proof.Machine

/-- NNN as an address: zero-extended, never scaled (R93). -/
def addrOfNNN (nnn : Addr12) : Addr := nnn.setWidth 16

/-- A register value as an address: zero-extended (R131, R181). -/
def addrOfByte (v : Byte) : Addr := v.setWidth 16

/-- The low nibble of a register value: a key or glyph number (R182, R234, R235). -/
def lowNibble (v : Byte) : Nibble := v.setWidth 4

/-- The address of a glyph: `0x50 + 5 * g` (R182). -/
def glyphAddr (g : Nibble) : Addr := 0x0050 + 5 * g.setWidth 16

/-- The base address of a memory instruction: `I` as a natural number (R186). -/
def State.base (s : State) : Nat := s.idx.toNat

/-- The three decimal digits of a byte, hundreds first (R183). -/
def bcdDigits (v : Byte) : List Byte :=
  [BitVec.ofNat 8 (v.toNat / 100), BitVec.ofNat 8 (v.toNat / 10 % 10), BitVec.ofNat 8 (v.toNat % 10)]

/-- The operand a shift shifts: `x[Y]` in legacy mode, `x[X]` in standard mode (R166, R167). -/
def State.shiftOperand (s : State) (x y : RegId) : Byte :=
  match s.cfg.shiftQuirk with
  | .standard => s.reg x
  | .legacy => s.reg y

/-- Key k is held down: bit k of `keys` (R258). -/
def State.keyDown (s : State) (k : Nibble) : Bool := s.keys.getLsbD k.toNat

/-- The lowest-numbered key held down, if any (R236). -/
def State.lowestKey (s : State) : Option Nat := (List.range 16).find? fun k => s.keys.getLsbD k

end Sys2Proof.Machine
end

