-- ==== Sys2Proof/Machine/Alu.lean ====
section
/-! DEFINITION. Bitwise and arithmetic register-pair instructions (spec/42_alu.md): operands first, then the result,
the flag last (R15). -/

namespace Sys2Proof.Machine

/-- Or (R160). -/
def execOr (x y : RegId) (s : State) : Result := .next (s.setReg x (s.reg x ||| s.reg y))

/-- And (R161). -/
def execAnd (x y : RegId) (s : State) : Result := .next (s.setReg x (s.reg x &&& s.reg y))

/-- Xor (R162). -/
def execXor (x y : RegId) (s : State) : Result := .next (s.setReg x (s.reg x ^^^ s.reg y))

/-- Add (R163). -/
def execAdd (x y : RegId) (s : State) : Result :=
  .next (s.setRegFlag x (sumOf (s.reg x) (s.reg y)) (carryFlag (s.reg x) (s.reg y)))

/-- Sub (R164). -/
def execSub (x y : RegId) (s : State) : Result :=
  .next (s.setRegFlag x (diffOf (s.reg x) (s.reg y)) (noBorrowFlag (s.reg x) (s.reg y)))

/-- SubN: the operands of Sub exchanged (R165). -/
def execSubN (x y : RegId) (s : State) : Result :=
  .next (s.setRegFlag x (diffOf (s.reg y) (s.reg x)) (noBorrowFlag (s.reg y) (s.reg x)))

/-- ShiftRight (R166). -/
def execShiftRight (x y : RegId) (s : State) : Result :=
  .next (s.setRegFlag x (shiftedRight (s.shiftOperand x y)) (rightOutFlag (s.shiftOperand x y)))

/-- ShiftLeft (R167). -/
def execShiftLeft (x y : RegId) (s : State) : Result :=
  .next (s.setRegFlag x (shiftedLeft (s.shiftOperand x y)) (leftOutFlag (s.shiftOperand x y)))

end Sys2Proof.Machine
end

