-- ==== Sys2Proof/Machine/Assign.lean ====
section
/-! DEFINITION. Register assignment (spec/41_register_assign.md). None of the three writes the flag. -/

namespace Sys2Proof.Machine

/-- Set (R150). -/
def execSet (x : RegId) (nn : Byte) (s : State) : Result := .next (s.setReg x nn)

/-- Assign (R151). -/
def execAssign (x y : RegId) (s : State) : Result := .next (s.setReg x (s.reg y))

/-- AddConst: wraps, no flag (R152). -/
def execAddConst (x : RegId) (nn : Byte) (s : State) : Result := .next (s.setReg x (sumOf (s.reg x) nn))

end Sys2Proof.Machine
end

