-- ==== Sys2Proof/Machine/Control.lean ====
section
/-! DEFINITION. Control flow (spec/40_control_flow.md). In every meaning `pc` is already `pc_i + 2` (R254). -/

namespace Sys2Proof.Machine

/-- Jump (R130). -/
def execJump (nnn : Addr12) (s : State) : Result := .next (s.setPc (addrOfNNN nnn))

/-- JumpOffset: the register is always `x[0]`, the sum is not masked (R131). -/
def execJumpOffset (nnn : Addr12) (s : State) : Result :=
  .next (s.setPc (addrOfNNN nnn + addrOfByte (s.reg 0)))

/-- Call: push the advanced pc, or StackExhaustion with nothing applied (R132). -/
def execCall (nnn : Addr12) (s : State) : Result :=
  .next (match s.push s.pc with
    | some t => t.setPc (addrOfNNN nnn)
    | none => s.raiseBy (.call nnn) .stackExhaustion)

/-- Return: pop into pc, or StackUnderflow (R133). -/
def execReturn (s : State) : Result :=
  .next (match s.pop with
    | some (a, t) => t.setPc a
    | none => s.raiseBy .ret .stackUnderflow)

/-- SkipEqImm (R134). -/
def execSkipEqImm (x : RegId) (nn : Byte) (s : State) : Result := .next (s.skipIf (s.reg x == nn))

/-- SkipNeImm (R135). -/
def execSkipNeImm (x : RegId) (nn : Byte) (s : State) : Result := .next (s.skipIf (s.reg x != nn))

/-- SkipEqReg; the low nibble has no effect (R136). -/
def execSkipEqReg (x y : RegId) (s : State) : Result := .next (s.skipIf (s.reg x == s.reg y))

/-- SkipNeReg; the low nibble has no effect (R137). -/
def execSkipNeReg (x y : RegId) (s : State) : Result := .next (s.skipIf (s.reg x != s.reg y))

end Sys2Proof.Machine
end

