-- ==== Sys2Proof/Machine/Display.lean ====
section
/-! DEFINITION. The display instructions (spec/44_display.md R210, R211). -/

namespace Sys2Proof.Machine

/-- ClearScreen (R210). -/
def execClearScreen (s : State) : Result := .next (s.setScreen s.screen.clear)

/-- Draw: the whole range is checked first, the sprite is flipped in row by row, the collision flag is written last,
also when N is 0 (R211). -/
def execDraw (x y : RegId) (n : Nibble) (s : State) : Result :=
  .next (match s.loadBytes s.base n.toNat with
    | some bs =>
      let drawn := s.screen.drawRows (s.reg x).toNat (s.reg y).toNat bs
      (s.setScreen drawn.2).setReg flagReg (flagOf drawn.1)
    | none => s.raiseBy (.draw x y n) .memoryRangeViolation)

end Sys2Proof.Machine
end

