-- ==== Sys2Proof/Machine/Index.lean ====
section
/-! DEFINITION. The index register and memory instructions (spec/43_memory_index.md). None but the first three
changes `I`. -/

namespace Sys2Proof.Machine

/-- SetIndex (R180). -/
def execSetIndex (nnn : Addr12) (s : State) : Result := .next (s.setIndex (addrOfNNN nnn))

/-- AddIndex: a sum above 0xFFFF is MemoryRangeViolation; no flag (R181). -/
def execAddIndex (x : RegId) (s : State) : Result :=
  .next (if 0xFFFF < s.idx.toNat + (s.reg x).toNat then s.raiseBy (.addIndex x) .memoryRangeViolation
    else s.setIndex (s.idx + addrOfByte (s.reg x)))

/-- FontChar (R182). -/
def execFontChar (x : RegId) (s : State) : Result := .next (s.setIndex (glyphAddr (lowNibble (s.reg x))))

/-- StoreBcd (R183). -/
def execStoreBcd (x : RegId) (s : State) : Result :=
  .next ((s.storeBytes s.base (bcdDigits (s.reg x))).getD (s.raiseBy (.storeBcd x) .memoryRangeViolation))

/-- StoreRegs (R184). -/
def execStoreRegs (x : RegId) (s : State) : Result :=
  .next ((s.storeBytes s.base (s.regsUpTo x)).getD (s.raiseBy (.storeRegs x) .memoryRangeViolation))

/-- LoadRegs (R185). -/
def execLoadRegs (x : RegId) (s : State) : Result :=
  .next (match s.loadBytes s.base (x.toNat + 1) with
    | some bs => s.setRegsFrom 0 bs
    | none => s.raiseBy (.loadRegs x) .memoryRangeViolation)

end Sys2Proof.Machine
end

