-- ==== Sys2Proof/Machine/TimersKeys.lean ====
section
/-! DEFINITION. Random, timer and keypad instructions (spec/45_timers_random_keys.md). None of them can fault. -/

namespace Sys2Proof.Machine

/-- Random: the presented byte AND the mask; the byte is consumed (R230). -/
def execRandom (x : RegId) (nn : Byte) (s : State) : Result :=
  .next (s.setReg x (s.rnd &&& nn)).takeRnd

/-- GetDelay (R231). -/
def execGetDelay (x : RegId) (s : State) : Result := .next (s.setReg x s.dt)

/-- SetDelay (R232). -/
def execSetDelay (x : RegId) (s : State) : Result := .next (s.setDelay (s.reg x))

/-- SetSound (R233). -/
def execSetSound (x : RegId) (s : State) : Result := .next (s.setSound (s.reg x))

/-- SkipKey (R234). -/
def execSkipKey (x : RegId) (s : State) : Result := .next (s.skipIf (s.keyDown (lowNibble (s.reg x))))

/-- SkipNotKey (R235). -/
def execSkipNotKey (x : RegId) (s : State) : Result := .next (s.skipIf (!s.keyDown (lowNibble (s.reg x))))

/-- WaitKey: with no key down, back to `pc_i`; else the lowest key (R236). -/
def execWaitKey (x : RegId) (s : State) : Result :=
  .next (match s.lowestKey with
    | none => s.setPc (s.pc - 2)
    | some k => s.setReg x (BitVec.ofNat 8 k))

end Sys2Proof.Machine
end

