-- ==== Sys2Proof/Machine/Engine.lean ====
section
/-! DEFINITION. The phases of a step put together (spec/50_engine_step.md R250). -/

namespace Sys2Proof.Machine

/-- Phase 4: decode the word and execute it, or latch UnknownInstruction (R255). `pc` is already advanced. -/
def executeWord (op : Word) (s : State) : Result :=
  match decode op with
  | .ok i => exec i s
  | .error _ => .next (s.unknownFault op)

/-- Phases 3 and 4 (R253 to R255). -/
def fetchExecute (s : State) : Result :=
  match s.fetch with
  | some op => executeWord op s.advance
  | none => .next s.fetchFault

/-- One step: a faulted machine changes nothing (R296), a running one does the four phases in order (R250). -/
def runStep (s : State) : Result :=
  match s.status with
  | .fault => .next s
  | .run => fetchExecute s.beginStep

end Sys2Proof.Machine
end

