-- ==== Sys2Proof/Machine/Step.lean ====
section
/-! DEFINITION. The step, and the placing of one word where the next step fetches. -/

namespace Sys2Proof.Machine

/-- One step of the machine (R250). -/
def step : State → Host.Outcome State Fault Refusal := runStep

/-- The word of an opcode table row placed where the next step fetches. -/
def State.withFetchWord (s : State) (nbits w : Nat) : State := s.placeWord (tableWord nbits w)

end Sys2Proof.Machine
end

