-- ==== Sys2Proof/Safety.lean ====
section
/-! DEFINITION. The words claims are stated in: a run without a fault, the invariant of the machine, what a step is
about to execute, frames, and the state with another configuration or other inputs. -/

namespace Sys2Proof.Machine

/-- No fault is latched (R296: a claim about a program takes this as a premise or proves it). -/
abbrev State.Running (s : State) : Prop := s.status = .run

/-- A safe run: `k` steps of the machine from `s`, none of which latches a fault. -/
def SafeRun (k : Nat) (s : State) : Prop :=
  ∀ n, n ≤ k → ∃ t, Sys2Proof.core.run n s = .next t ∧ State.Running t

/-- The end of a program by the convention of R264: `pc` at a Jump to its own address. -/
def State.AtEnd (s : State) : Prop := s.fetch = some (0x1000 ||| s.pc)

/-- The instruction the next step of a running machine executes, if its fetch and its decode succeed. -/
def State.nextInstr (s : State) : Option Instr :=
  match s.fetch with
  | some op => (decode op).toOption
  | none => none

/-- What the fault latch holds in every reachable state (R33, R291): nothing while running, else a cause, an address
a fetch was made at. -/
def State.LatchOk (s : State) : Prop :=
  match s.status with
  | .run => s.faultCause = .none ∧ s.faultAddr = 0 ∧ s.faultWord = 0
  | .fault => s.faultCause ≠ .none ∧ s.faultAddr.toNat ≤ 0x10FE ∧ s.rndTake = false

/-- The invariant of the machine. -/
structure State.Inv (s : State) : Prop where
  /-- Memory is in its canonical form. -/
  memCanonical : s.mem.wf s.cfg.font = true
  /-- `pc` never passes the largest jump target (R25). -/
  pcBounded : s.pc.toNat ≤ 0x10FE
  /-- A stack slot holds a return address (R33). -/
  stackBounded : ∀ k : Fin 16, s.stack[k].toNat ≤ 4096
  /-- The fault latch is consistent with the status. -/
  latchOk : s.LatchOk

/-! ### Frames -/

/-- `t` is `s` but for general registers, and of those only the ones `p` names may differ; every byte of memory reads
as before. -/
def OnlyRegs (p : RegId → Prop) (s t : State) : Prop :=
  t = { s with x := t.x } ∧ (∀ r, ¬ p r → t.reg r = s.reg r) ∧ ∀ a, t.byteAt a = s.byteAt a

/-- `t` is `s` but for the program counter; every register and every byte of memory reads as before. -/
def OnlyPc (s t : State) : Prop :=
  t = { s with pc := t.pc } ∧ (∀ r, t.reg r = s.reg r) ∧ ∀ a, t.byteAt a = s.byteAt a

/-- `t` is `s` but for the index register; every register and every byte of memory reads as before. -/
def OnlyIndex (s t : State) : Prop :=
  t = { s with idx := t.idx } ∧ (∀ r, t.reg r = s.reg r) ∧ ∀ a, t.byteAt a = s.byteAt a

/-- `t` is `s` but for memory; every register reads as before, and so does every byte outside the `n` bytes from
`base`. -/
def OnlyBytes (base n : Nat) (s t : State) : Prop :=
  t = { s with mem := t.mem } ∧ (∀ r, t.reg r = s.reg r) ∧
    ∀ a, ¬ (base ≤ a ∧ a < base + n) → t.byteAt a = s.byteAt a

/-- `t` is `s` with a fault of cause `c` latched and nothing else changed (R295). -/
def OnlyLatches (c : FaultCause) (s t : State) : Prop :=
  t = { s with status := .fault, faultCause := c, faultAddr := t.faultAddr, faultWord := t.faultWord } ∧
    ∀ a, t.byteAt a = s.byteAt a

end Sys2Proof.Machine

namespace Sys2Proof

/-- The general registers an instruction may write: its destination and, where it sets the flag, register 15
(R20, R21). -/
def Instr.writesReg (r : RegId) : Instr → Bool
  | .set x _ | .addConst x _ | .assign x _ | .or x _ | .and x _ | .xor x _ => r == x
  | .random x _ | .getDelay x | .waitKey x => r == x
  | .add x _ | .sub x _ | .subN x _ | .shiftRight x _ | .shiftLeft x _ => r == x || r == flagReg
  | .draw _ _ _ => r == flagReg
  | .loadRegs x => decide (r.toNat ≤ x.toNat)
  | .clearScreen | .ret | .jump _ | .call _ | .jumpOffset _ => false
  | .skipEqImm _ _ | .skipNeImm _ _ | .skipEqReg _ _ _ | .skipNeReg _ _ _ => false
  | .skipKey _ | .skipNotKey _ | .setDelay _ | .setSound _ => false
  | .setIndex _ | .addIndex _ | .fontChar _ | .storeBcd _ | .storeRegs _ => false

/-- The instructions that write `x[15]` as a flag (R21). -/
def Instr.setsFlag : Instr → Bool
  | .add _ _ | .sub _ _ | .subN _ _ | .shiftRight _ _ | .shiftLeft _ _ | .draw _ _ _ => true
  | .set _ _ | .addConst _ _ | .assign _ _ | .or _ _ | .and _ _ | .xor _ _ => false
  | .random _ _ | .getDelay _ | .waitKey _ | .loadRegs _ => false
  | .clearScreen | .ret | .jump _ | .call _ | .jumpOffset _ => false
  | .skipEqImm _ _ | .skipNeImm _ _ | .skipEqReg _ _ _ | .skipNeReg _ _ _ => false
  | .skipKey _ | .skipNotKey _ | .setDelay _ | .setSound _ => false
  | .setIndex _ | .addIndex _ | .fontChar _ | .storeBcd _ | .storeRegs _ => false

end Sys2Proof

namespace Sys2Proof.Machine

/-! ### Sprites -/

/-- A set, untruncated bit of the sprite of `n` bytes at `I`, drawn at column `cx` and row `cy`, lies on pixel
(col, row): some byte r and some k in 0..7 with `(cx mod 64) + k = col`, `(cy + r) mod 32 = row` and bit `7 - k` of
`mem[I + r]` set (R201, R212). -/
def State.SpriteCovers (s : State) (cx cy n col row : Nat) : Prop :=
  ∃ r k, r < n ∧ k ≤ 7 ∧ cx % 64 + k = col ∧ (cy + r) % 32 = row ∧
    (s.byteAt (s.base + r)).getLsbD (7 - k) = true

/-- A set, untruncated bit of the pattern `p` placed at column `x` lies on column `col` (R201). -/
def patternCovers (p : Byte) (x col : Nat) : Bool :=
  decide (x % 64 ≤ col ∧ col ≤ x % 64 + 7) && p.getLsbD (7 - (col - x % 64))

/-! ### Other configurations and inputs -/

/-- The same state with another SHIFT_QUIRK. -/
def State.withQuirk (s : State) (q : ShiftQuirk) : State := { s with cfg := { s.cfg with shiftQuirk := q } }

/-- The same state with another keypad vector presented. -/
def State.withKeys (s : State) (keys : BitVec 16) : State := { s with keys := keys }

/-- The same state with another random byte presented. -/
def State.withRnd (s : State) (rnd : Byte) : State := { s with rnd := rnd }

end Sys2Proof.Machine
end

