-- ==== Sys2Proof/Certificates/Slice0/Obligations.lean ====
section
/-! DEFINITION. The statements about the machine, for the provers. Each docstring names the rule of the spec it
formalises, or says that it rests on the spec's own inference or decision, or on a choice of the model. -/

open Sys2Proof Sys2Proof.Machine

/-! ### Encoding -/

/-- Every instruction, with every operand, is what the decoder reads from its word. The pairing of words with
operations is the map of 30_encoding.md section 2, a decision of the spec (D9); that the nibble the hardware ignores in
5XYN and 9XYN comes back as well is the model's choice (notes/assumptions/8.md). -/
def Obligations.DecodeInvertsEncode : Prop :=
  ∀ i : Instr, decode (encode i) = .ok i

/-- A word that decodes is the word of the instruction it decodes to. For 5XYN and 9XYN this holds because the model
keeps the low nibble, which R99 says is not examined, in the instruction: a choice of the model
(notes/assumptions/8.md, DESIGN CHOICE). The pairing of words with operations is the spec's decision D9. -/
def Obligations.EncodeInvertsDecode : Prop :=
  ∀ (w : Word) (i : Instr), decode w = .ok i → encode i = w

/-- The decoder test of 30_encoding.md section 2, both halves for all words (the rows of the table are the spec's
decision D9): a word that has the fixed bits of a row of the opcode table decodes to an
instruction of that row's slot, and a word that has those of no row is rejected. -/
def Obligations.DecoderAgreesWithOpcodeTable : Prop :=
  ∀ w : Word,
    (∀ k : Fin 34, (opcodeRow k).selects w → ∃ i, decode w = .ok i ∧ i.slot = k) ∧
    ((∀ k : Fin 34, ¬ (opcodeRow k).selects w) → ∃ e, decode w = .error e)

/-- The unknown words are exactly those of the spec's own list (30_encoding.md, "The unknown space, complete"). -/
def Obligations.UnknownSpaceIsComplete : Prop :=
  ∀ w : Word, (∃ e, decode w = .error e) ↔
    ((w.toNat / 0x1000 = 0x0 ∧ w.toNat ≠ 0x00E0 ∧ w.toNat ≠ 0x00EE) ∨
      (w.toNat / 0x1000 = 0x8 ∧ 8 ≤ w.toNat % 16 ∧ w.toNat % 16 ≠ 0xE) ∨
      (w.toNat / 0x1000 = 0xE ∧ w.toNat % 256 ≠ 0x9E ∧ w.toNat % 256 ≠ 0xA1) ∨
      (w.toNat / 0x1000 = 0xF ∧
        w.toNat % 256 ∉ [0x07, 0x0A, 0x15, 0x18, 0x1E, 0x29, 0x33, 0x55, 0x65]))

/-- At least one word of each of the 16 families (top nibbles), from S1 of 95_test_vectors.md or written out from the
formats of 30_encoding.md, decodes to its instruction, and two words are rejected. The map is the spec's decision D9;
that 0x512F and 0x9ABF carry their ignored nibble is the model's choice (notes/assumptions/8.md). -/
def Obligations.SampleWordsDecode : Prop :=
  decode 0x00E0 = .ok .clearScreen ∧ decode 0x00EE = .ok .ret ∧ decode 0x1ABC = .ok (.jump 0xABC) ∧
  decode 0x2ABC = .ok (.call 0xABC) ∧ decode 0x3A05 = .ok (.skipEqImm 10 5) ∧
  decode 0x4A05 = .ok (.skipNeImm 10 5) ∧ decode 0x512F = .ok (.skipEqReg 1 2 15) ∧
  decode 0x6A05 = .ok (.set 10 5) ∧ decode 0x7A05 = .ok (.addConst 10 5) ∧ decode 0x812E = .ok (.shiftLeft 1 2) ∧
  decode 0x9ABF = .ok (.skipNeReg 10 11 15) ∧ decode 0xA2F0 = .ok (.setIndex 0x2F0) ∧
  decode 0xB300 = .ok (.jumpOffset 0x300) ∧ decode 0xC10F = .ok (.random 1 0x0F) ∧ decode 0xD005 = .ok (.draw 0 0 5) ∧
  decode 0xE1A1 = .ok (.skipNotKey 1) ∧ decode 0xF365 = .ok (.loadRegs 3) ∧
  decode 0x0000 = .error .unknownFamily0 ∧ decode 0x8128 = .error .unknownFamily8

/-! ### Invariants of the machine -/

/-- Every step keeps the invariant: memory canonical, `pc <= 0x10FE`, every stack slot at most 4096, the fault latch
consistent. The bounds are the spec's own inferences (10_state.md sections 2, 6). -/
def Obligations.EveryStepKeepsTheInvariant : Prop :=
  ∀ s t : State, s.Inv → step s = .next t → t.Inv

/-- The reset state meets the invariant. -/
def Obligations.ResetMeetsTheInvariant : Prop := State.reset.Inv

/-- Construction with any configuration and any image of at most 3584 bytes gives the reset values, the font, the
image and zero elsewhere, and meets the invariant; a longer image is refused (70_reset_and_hazards.md section 1; the
values the source omits are the spec's decision D19, the bound its decision D18). -/
def Obligations.ConstructionGivesTheResetState : Prop :=
  ∀ (cfg : Config) (image : List Byte),
    (3584 < image.length → State.construct cfg image = none) ∧
    (image.length ≤ 3584 → ∃ t, State.construct cfg image = some t ∧ t.Inv ∧ t.cfg = cfg ∧
      (∀ r, t.reg r = 0) ∧ t.pc = 0x200 ∧ t.idx = 0 ∧ t.sp = 0 ∧ (∀ k : Fin 16, t.stack[k] = 0) ∧
      t.dt = 0 ∧ t.st = 0 ∧ t.cyc = 0 ∧ (∀ x y, t.pixel x y = false) ∧ t.changedPort = false ∧
      t.status = .run ∧ t.faultCause = .none ∧ t.faultAddr = 0 ∧ t.faultWord = 0 ∧
      (∀ k : Fin 80, t.byteAt (0x50 + k.val) = cfg.font[k]) ∧
      (∀ k (h : k < image.length), t.byteAt (0x200 + k) = image[k]) ∧
      (∀ a, ¬ (0x50 ≤ a ∧ a < 0xA0) → ¬ (0x200 ≤ a ∧ a < 0x200 + image.length) → t.byteAt a = 0))

/-- The canonical form is one form: two canonical memories that read alike at every address are the same data. The
form is the model's own (notes/assumptions/12.md). -/
def Obligations.CanonicalMemoriesAreDeterminedByTheirReads : Prop :=
  ∀ (font : Vector Byte 80) (m m' : Memory), m.wf font = true → m'.wf font = true →
    (∀ a, m.read font a = m'.read font a) → m = m'

/-! ### The step -/

/-- When the two bytes at `pc` decode to an instruction, a running step is that instruction executed after the phases
before the fetch (`beginStep`) and the advance of `pc` by 2. -/
def Obligations.StepRunsTheDecodedInstruction : Prop :=
  ∀ (s : State) (i : Instr), s.Running → s.pc.toNat ≤ 4094 →
    decode (s.byteAt s.pc.toNat ++ s.byteAt (s.pc.toNat + 1)) = .ok i →
    step s = exec i s.beginStep.advance ∧
      s.beginStep.advance = { s.beginStep with pc := s.pc + 2 }

/-- What a running step does before its fetch: count the step, tick the timers on the schedule, clear `changed` and
the random strobe, take the step's inputs, and nothing else. Where the inputs come from is the model's choice
(notes/assumptions/3.md); the schedule's integer division is the spec's decision D21. -/
def Obligations.PhasesBeforeTheFetch : Prop :=
  ∀ s : State, ∃ t, s.beginStep = t ∧
    t = { s with cyc := t.cyc, dt := t.dt, st := t.st, screen := t.screen, rndTake := false,
                 keys := t.keys, rnd := t.rnd, pending := t.pending, draws := t.draws } ∧
    t.screen = { s.screen with changed := false } ∧
    t.cyc.toNat = (s.cyc.toNat + 1) % 2 ^ 64 ∧
    (t.cyc.toNat % max (s.cfg.freq / 60) 1 = 0 → t.dt.toNat = s.dt.toNat - 1 ∧ t.st.toNat = s.st.toNat - 1) ∧
    (t.cyc.toNat % max (s.cfg.freq / 60) 1 ≠ 0 → t.dt = s.dt ∧ t.st = s.st) ∧
    (∀ inp rest, s.pending = inp :: rest →
      t.keys = inp.keys ∧ t.rnd = inp.rnd ∧ t.pending = rest ∧ t.draws = s.draws) ∧
    (s.pending = [] → t.keys = Config.keysInput s.draws ∧ t.rnd = Config.rndInput s.draws ∧
      t.pending = [] ∧ t.draws = s.draws + 1)

/-- Every step of a running machine counts, whatever it executes and whether or not it faults (50_engine_step.md
section 1; the width of the counter is the spec's decision D20). -/
def Obligations.EveryRunningStepCounts : Prop :=
  ∀ s t : State, s.Running → step s = .next t → t.cyc.toNat = (s.cyc.toNat + 1) % 2 ^ 64

/-- Over a whole step the timers follow the schedule of 50_engine_step.md section 1 exactly, saturating at 0, unless
the step executes the instruction that sets them (the integer division is the spec's decision D21). -/
def Obligations.TimersFollowTheSchedule : Prop :=
  ∀ s t : State, s.Running → step s = .next t →
    ((∀ x, s.nextInstr ≠ some (.setDelay x)) →
      t.dt.toNat = if (s.cyc.toNat + 1) % 2 ^ 64 % max (s.cfg.freq / 60) 1 = 0 then s.dt.toNat - 1 else s.dt.toNat) ∧
    ((∀ x, s.nextInstr ≠ some (.setSound x)) →
      t.st.toNat = if (s.cyc.toNat + 1) % 2 ^ 64 % max (s.cfg.freq / 60) 1 = 0 then s.st.toNat - 1 else s.st.toNat) ∧
    (∀ x, s.nextInstr = some (.setDelay x) → t.dt = s.reg x) ∧
    (∀ x, s.nextInstr = some (.setSound x) → t.st = s.reg x)

/-- R253: the fetch reads the big-endian word at `pc`; with `pc >= 4095` it raises MemoryRangeViolation, `pc` is not
advanced, no instruction executes, and the latch records `fault_addr = pc_i`, `fault_word = 0`. -/
def Obligations.FetchIsBigEndianAndRangeChecked : Prop :=
  ∀ s : State, s.Running →
    (s.pc.toNat ≤ 4094 → ∃ w, s.fetch = some w ∧
      w.toNat = 256 * (s.byteAt s.pc.toNat).toNat + (s.byteAt (s.pc.toNat + 1)).toNat) ∧
    (4095 ≤ s.pc.toNat → ∃ t, step s = .next t ∧
      t = { s.beginStep with status := .fault, faultCause := .memoryRangeViolation, faultAddr := s.pc, faultWord := 0 } ∧
      t.pc = s.pc)

/-- A word the decoder rejects halts and reports: only the latch is written after the advance (60_exceptions.md
sections 1, 2, the spec's decisions D3, D4). -/
def Obligations.UnknownWordLatchesAFault : Prop :=
  ∀ (s : State) (w : Word) (e : DecodeError), s.Running → s.fetch = some w → decode w = .error e →
    step s = .next { s.beginStep with pc := s.pc + 2, status := .fault, faultCause := .unknownInstruction,
                                      faultAddr := s.pc, faultWord := w }

/-- 50_engine_step.md section 1, the step outcome (the causes are the spec's decision D2): a step always answers a
next state, and from a state that meets the invariant its outcome is either `ok`, with no cause latched, or a fault
with one of the four causes. -/
def Obligations.EveryStepAnswersOkOrAFault : Prop :=
  ∀ s : State, ∃ t, step s = .next t ∧
    (s.Inv → (t.status = .run ∧ t.faultCause = .none) ∨
      (t.status = .fault ∧ t.faultCause ∈ [FaultCause.unknownInstruction, .stackExhaustion, .stackUnderflow,
        .memoryRangeViolation]))

/-- A faulted machine changes nothing in any number of steps (60_exceptions.md section 2, the spec's decision D2). -/
def Obligations.FaultedMachineNeverChanges : Prop :=
  ∀ (s : State) (k : Nat), s.status = .fault → Sys2Proof.core.run k s = .next s

/-- Fault entry: whatever instruction faults, the step leaves the phases before the fetch done and latches the
instruction's address and its fetched word; a fetch fault leaves `pc`, any other leaves `pc_i + 2`; nothing else is
written (60_exceptions.md section 2, the spec's decisions D2, D4). -/
def Obligations.FaultEntryLatchesTheInstruction : Prop :=
  ∀ s t : State, s.Running → step s = .next t → t.status = .fault →
    t = { s.beginStep with pc := t.pc, status := .fault, faultCause := t.faultCause, faultAddr := s.pc,
                           faultWord := t.faultWord } ∧
    ((4095 ≤ s.pc.toNat ∧ t.pc = s.pc ∧ t.faultCause = .memoryRangeViolation ∧ t.faultWord = 0) ∨
      (s.pc.toNat ≤ 4094 ∧ t.pc = s.pc + 2 ∧ s.fetch = some t.faultWord))

/-- The sites of each fault, complete (60_exceptions.md section 1; the sites beyond the fetch and Draw are the spec's
decisions D5, D13). -/
def Obligations.FaultSitesAreComplete : Prop :=
  ∀ s t : State, s.Running → step s = .next t →
    (t.status = .fault ∧ t.faultCause = .unknownInstruction ↔
      ∃ w e, s.fetch = some w ∧ decode w = .error e) ∧
    (t.status = .fault ∧ t.faultCause = .stackExhaustion ↔
      s.sp.val = 16 ∧ ∃ nnn, s.nextInstr = some (.call nnn)) ∧
    (t.status = .fault ∧ t.faultCause = .stackUnderflow ↔ s.sp.val = 0 ∧ s.nextInstr = some .ret) ∧
    (t.status = .fault ∧ t.faultCause = .memoryRangeViolation ↔
      4095 ≤ s.pc.toNat ∨
      (∃ x, s.nextInstr = some (.addIndex x) ∧ 0xFFFF < s.idx.toNat + (s.reg x).toNat) ∨
      (∃ x, s.nextInstr = some (.storeBcd x) ∧ 4095 < s.idx.toNat + 2) ∨
      (∃ x, (s.nextInstr = some (.storeRegs x) ∨ s.nextInstr = some (.loadRegs x)) ∧
        4095 < s.idx.toNat + x.toNat) ∨
      (∃ x y n, s.nextInstr = some (.draw x y n) ∧ n ≠ 0 ∧ 4095 < s.idx.toNat + n.toNat - 1))

/-- How each instruction that completes changes `pc`, over the whole step (10_state.md section 2; the key instructions
are the spec's decisions D11, D12). -/
def Obligations.PcAfterEachInstruction : Prop :=
  ∀ (s t : State) (i : Instr), s.Running → s.nextInstr = some i → step s = .next t → t.Running →
    t.pc.toNat = match i with
      | .jump nnn => nnn.toNat
      | .call nnn => nnn.toNat
      | .jumpOffset nnn => nnn.toNat + (s.reg 0).toNat
      | .ret => (s.stack[s.sp.val - 1]'(by omega)).toNat
      | .skipEqImm x nn => s.pc.toNat + if s.reg x = nn then 4 else 2
      | .skipNeImm x nn => s.pc.toNat + if s.reg x ≠ nn then 4 else 2
      | .skipEqReg x y _ => s.pc.toNat + if s.reg x = s.reg y then 4 else 2
      | .skipNeReg x y _ => s.pc.toNat + if s.reg x ≠ s.reg y then 4 else 2
      | .skipKey x => s.pc.toNat + if s.beginStep.keys.getLsbD ((s.reg x).toNat % 16) then 4 else 2
      | .skipNotKey x => s.pc.toNat + if s.beginStep.keys.getLsbD ((s.reg x).toNat % 16) then 2 else 4
      | .waitKey _ => s.pc.toNat + if s.beginStep.keys = 0 then 0 else 2
      | _ => s.pc.toNat + 2

/-- After a running step `changed` is 1 exactly when the step's instruction was ClearScreen, or a Draw of at least one
row whose bytes lie in memory (an inference of 44_display.md section 1, and the spec's decision D7). -/
def Obligations.ChangedDescribesTheLastStep : Prop :=
  ∀ s t : State, s.Running → step s = .next t →
    (t.changedPort = true ↔ s.nextInstr = some .clearScreen ∨
      ∃ x y n, s.nextInstr = some (.draw x y n) ∧ n ≠ 0 ∧ s.idx.toNat + n.toNat - 1 ≤ 4095)

/-- A running step raises `rnd_take` exactly when its instruction is Random (50_engine_step.md section 2). -/
def Obligations.RandomStrobeMarksRandomOnly : Prop :=
  ∀ s t : State, s.Running → step s = .next t →
    (t.rndTakePort = true ↔ ∃ x nn, s.nextInstr = some (.random x nn))

/-- A running step reads only the inputs presented for it: what the ports showed before makes no difference
(50_engine_step.md section 2, the spec's decision D28; the two fields are the model's, notes/assumptions/3.md). -/
def Obligations.StalePortValuesAreNeverRead : Prop :=
  ∀ (s : State) (keys : BitVec 16) (rnd : Byte), s.Running → step ((s.withKeys keys).withRnd rnd) = step s

/-- From the end of a program (`pc` at a Jump to itself) a step changes only `cyc`, the timers, downward, `changed`,
to 0, and the model's input fields, and the machine is at the end again (50_engine_step.md section 4, D30). -/
def Obligations.EndOfProgramIsALoop : Prop :=
  ∀ s : State, s.Running → s.AtEnd → ∃ t, step s = .next t ∧ t.Running ∧ t.AtEnd ∧
    t = { s with cyc := t.cyc, dt := t.dt, st := t.st, screen := { s.screen with changed := false }, rndTake := false,
                 keys := t.keys, rnd := t.rnd, pending := t.pending, draws := t.draws } ∧
    t.dt.toNat ≤ s.dt.toNat ∧ t.st.toNat ≤ s.st.toNat

/-! ### Whole-machine rules -/

/-- What any instruction leaves alone: registers it does not write, every byte of memory but the three of StoreBcd and
the X + 1 of StoreRegs, all from `I`, `I` but for its three instructions, the stack but for Call and Return, each
timer but for its setter, the framebuffer but for ClearScreen and Draw, the fault latch unless the instruction faults,
and in every case the configuration, the counter and the inputs (10_state.md sections 1 to 6). -/
def Obligations.InstructionsChangeOnlyTheirState : Prop :=
  ∀ (i : Instr) (s t : State), exec i s = .next t →
    (∀ r, i.writesReg r = false → t.reg r = s.reg r) ∧
    ((∀ x, i ≠ .storeBcd x ∧ i ≠ .storeRegs x) → ∀ a, t.byteAt a = s.byteAt a) ∧
    (∀ x, i = .storeBcd x → ∀ a, ¬ (s.base ≤ a ∧ a < s.base + 3) → t.byteAt a = s.byteAt a) ∧
    (∀ x, i = .storeRegs x → ∀ a, ¬ (s.base ≤ a ∧ a < s.base + (x.toNat + 1)) → t.byteAt a = s.byteAt a) ∧
    ((∀ nnn x, i ≠ .setIndex nnn ∧ i ≠ .addIndex x ∧ i ≠ .fontChar x) → t.idx = s.idx) ∧
    ((∀ nnn, i ≠ .call nnn) → t.stack = s.stack) ∧
    ((∀ nnn, i ≠ .call nnn ∧ i ≠ .ret) → t.sp = s.sp) ∧
    ((∀ x, i ≠ .setDelay x) → t.dt = s.dt) ∧ ((∀ x, i ≠ .setSound x) → t.st = s.st) ∧
    ((∀ x y n, i ≠ .clearScreen ∧ i ≠ .draw x y n) → t.screen = s.screen) ∧
    ((∀ x nn, i ≠ .random x nn) → t.rndTake = s.rndTake) ∧
    (t.Running → t.status = s.status ∧ t.faultCause = s.faultCause ∧ t.faultAddr = s.faultAddr ∧
      t.faultWord = s.faultWord) ∧
    t.cfg = s.cfg ∧ t.cyc = s.cyc ∧ t.keys = s.keys ∧ t.rnd = s.rnd ∧ t.pending = s.pending ∧ t.draws = s.draws

/-- The flag register holds exactly 0 or 1 after each instruction that writes it as a flag, on every execution that
completes; every other instruction changes it only as its named destination (10_state.md section 1). -/
def Obligations.FlagRegisterIsZeroOrOne : Prop :=
  ∀ (i : Instr) (s t : State), s.Running → exec i s = .next t → t.Running →
    (i.setsFlag = true → t.reg 15 = 0 ∨ t.reg 15 = 1) ∧
    (i.setsFlag = false → t.reg 15 ≠ s.reg 15 → i.writesReg 15 = true)

/-- R104: SHIFT_QUIRK selects what ShiftRight and ShiftLeft do (the value of Y in legacy, of X in standard, shifted by
one, and the bit shifted out), no other instruction does anything else under another quirk, and the instruction the
next step selects is the same. -/
def Obligations.OnlyTheShiftsReadTheQuirk : Prop :=
  (∀ (x y : RegId) (s : State) (q : ShiftQuirk) (v : Byte), v = (if q = .legacy then s.reg y else s.reg x) →
    (∃ t, exec (.shiftRight x y) (s.withQuirk q) = .next t ∧
      (x ≠ 15 → (t.reg x).toNat = v.toNat / 2) ∧ (t.reg 15).toNat = v.toNat % 2) ∧
    (∃ t, exec (.shiftLeft x y) (s.withQuirk q) = .next t ∧
      (x ≠ 15 → (t.reg x).toNat = 2 * v.toNat % 256) ∧ (t.reg 15).toNat = v.toNat / 128)) ∧
  (∀ (i : Instr) (s t : State) (q : ShiftQuirk), (∀ x y, i ≠ .shiftRight x y ∧ i ≠ .shiftLeft x y) →
    exec i s = .next t → exec i (s.withQuirk q) = .next (t.withQuirk q)) ∧
  ∀ (s : State) (q : ShiftQuirk), (s.withQuirk q).nextInstr = s.nextInstr

/-- Only the three key instructions read `keys`, and only Random reads `rnd` (50_engine_step.md section 2, the spec's
decisions D11, D28). -/
def Obligations.InputsReachOnlyTheirInstructions : Prop :=
  ∀ (i : Instr) (s t : State), exec i s = .next t →
    (∀ keys, (∀ x, i ≠ .skipKey x ∧ i ≠ .skipNotKey x ∧ i ≠ .waitKey x) →
      exec i (s.withKeys keys) = .next (t.withKeys keys)) ∧
    (∀ rnd, (∀ x nn, i ≠ .random x nn) → exec i (s.withRnd rnd) = .next (t.withRnd rnd))

/-! ### Control flow -/

/-- R130, R131: Jump and JumpOffset write `pc`, unmasked, and nothing else. -/
def Obligations.JumpsWriteThePc : Prop :=
  ∀ (nnn : Addr12) (s : State),
    (∃ t, exec (.jump nnn) s = .next t ∧ t.pc.toNat = nnn.toNat ∧ OnlyPc s t) ∧
    (∃ t, exec (.jumpOffset nnn) s = .next t ∧ t.pc.toNat = nnn.toNat + (s.reg 0).toNat ∧ OnlyPc s t)

/-- R132: Call pushes the advanced `pc` and jumps; with 16 addresses held it raises StackExhaustion and applies
nothing. -/
def Obligations.CallPushesOrExhausts : Prop :=
  ∀ (nnn : Addr12) (s : State),
    (∀ h : s.sp.val < 16, ∃ t, exec (.call nnn) s = .next t ∧
      t.sp.val = s.sp.val + 1 ∧ t.stack[s.sp.val] = s.pc ∧
      (∀ k : Fin 16, k.val ≠ s.sp.val → t.stack[k] = s.stack[k]) ∧ t.pc.toNat = nnn.toNat ∧
      t = { s with pc := t.pc, sp := t.sp, stack := t.stack } ∧ ∀ a, t.byteAt a = s.byteAt a) ∧
    (s.sp.val = 16 → ∃ t, exec (.call nnn) s = .next t ∧ OnlyLatches .stackExhaustion s t)

/-- R133: Return pops the newest address into `pc`, the slot keeps its contents; with an empty stack it raises
StackUnderflow and leaves `sp` and `pc`. -/
def Obligations.ReturnPopsOrUnderflows : Prop :=
  ∀ s : State,
    (∀ h : 0 < s.sp.val, ∃ t, exec .ret s = .next t ∧
      t.sp.val = s.sp.val - 1 ∧ t.pc = s.stack[s.sp.val - 1]'(by omega) ∧
      t = { s with pc := t.pc, sp := t.sp } ∧ ∀ a, t.byteAt a = s.byteAt a) ∧
    (s.sp.val = 0 → ∃ t, exec .ret s = .next t ∧ OnlyLatches .stackUnderflow s t)

/-- A Call followed by a Return, wherever the callee moved `pc`, restores the `pc` the Call executed with, the stack
pointer, and everything else but the one stack slot the Call wrote (90_conflicts.md C2). -/
def Obligations.ReturnUndoesCall : Prop :=
  ∀ (nnn : Addr12) (s : State) (p : Addr), s.sp.val < 16 →
    ∃ t u, exec (.call nnn) s = .next t ∧ exec .ret (t.setPc p) = .next u ∧
      u.pc = s.pc ∧ u.sp = s.sp ∧ u = { s with stack := u.stack } ∧
      (∀ k : Fin 16, k.val ≠ s.sp.val → u.stack[k] = s.stack[k]) ∧ ∀ a, u.byteAt a = s.byteAt a

/-- R134 to R137: each skip adds 2 to `pc` when its condition holds and has no other effect. -/
def Obligations.SkipsAddTwoOnTheirCondition : Prop :=
  ∀ (x y : RegId) (nn : Byte) (n : Nibble) (s : State),
    (∃ t, exec (.skipEqImm x nn) s = .next t ∧ OnlyPc s t ∧
      t.pc = if s.reg x = nn then s.pc + 2 else s.pc) ∧
    (∃ t, exec (.skipNeImm x nn) s = .next t ∧ OnlyPc s t ∧
      t.pc = if s.reg x = nn then s.pc else s.pc + 2) ∧
    (∃ t, exec (.skipEqReg x y n) s = .next t ∧ OnlyPc s t ∧
      t.pc = if s.reg x = s.reg y then s.pc + 2 else s.pc) ∧
    (∃ t, exec (.skipNeReg x y n) s = .next t ∧ OnlyPc s t ∧
      t.pc = if s.reg x = s.reg y then s.pc else s.pc + 2)

/-! ### Register assignment and arithmetic -/

/-- R150 to R152: Set, Assign and AddConst write their register and no flag. -/
def Obligations.AssignmentsWriteOneRegister : Prop :=
  ∀ (x y : RegId) (nn : Byte) (s : State),
    (∃ t, exec (.set x nn) s = .next t ∧ t.reg x = nn ∧ OnlyRegs (· = x) s t) ∧
    (∃ t, exec (.assign x y) s = .next t ∧ t.reg x = s.reg y ∧ OnlyRegs (· = x) s t) ∧
    (∃ t, exec (.addConst x nn) s = .next t ∧
      (t.reg x).toNat = ((s.reg x).toNat + nn.toNat) % 256 ∧ OnlyRegs (· = x) s t)

/-- R160 to R162: Or, And and Xor combine bit by bit into the left register; no flag. -/
def Obligations.BitwiseCombinesIntoLeft : Prop :=
  ∀ (x y : RegId) (s : State),
    (∃ t, exec (.or x y) s = .next t ∧ OnlyRegs (· = x) s t ∧
      ∀ k, (t.reg x).getLsbD k = ((s.reg x).getLsbD k || (s.reg y).getLsbD k)) ∧
    (∃ t, exec (.and x y) s = .next t ∧ OnlyRegs (· = x) s t ∧
      ∀ k, (t.reg x).getLsbD k = ((s.reg x).getLsbD k && (s.reg y).getLsbD k)) ∧
    (∃ t, exec (.xor x y) s = .next t ∧ OnlyRegs (· = x) s t ∧
      ∀ k, (t.reg x).getLsbD k = ((s.reg x).getLsbD k != (s.reg y).getLsbD k))

/-- R163: the 9-bit sum; its low byte goes to the left register and its top bit, last, to register 15. -/
def Obligations.AddWritesSumThenCarry : Prop :=
  ∀ (x y : RegId) (s : State), ∃ t, exec (.add x y) s = .next t ∧ OnlyRegs (fun r => r = x ∨ r = 15) s t ∧
    (x ≠ 15 → t.reg x = ((s.reg x).setWidth 9 + (s.reg y).setWidth 9).setWidth 8) ∧
    t.reg 15 = if 255 < (s.reg x).toNat + (s.reg y).toNat then 1 else 0

/-- R164, R165: the wrapped difference, then the not-borrow flag. -/
def Obligations.SubtractionsWriteDifferenceThenNotBorrow : Prop :=
  ∀ (x y : RegId) (s : State),
    (∃ t, exec (.sub x y) s = .next t ∧ OnlyRegs (fun r => r = x ∨ r = 15) s t ∧
      (x ≠ 15 → t.reg x = s.reg x - s.reg y) ∧
      t.reg 15 = if (s.reg x).toNat ≥ (s.reg y).toNat then 1 else 0) ∧
    (∃ t, exec (.subN x y) s = .next t ∧ OnlyRegs (fun r => r = x ∨ r = 15) s t ∧
      (x ≠ 15 → t.reg x = s.reg y - s.reg x) ∧
      t.reg 15 = if (s.reg y).toNat ≥ (s.reg x).toNat then 1 else 0)

/-- R166, R167: the operand the quirk selects, shifted by one, then the bit shifted out. -/
def Obligations.ShiftsWriteResultThenBitShiftedOut : Prop :=
  ∀ (x y : RegId) (s : State) (v : Byte),
    v = (if s.cfg.shiftQuirk = .legacy then s.reg y else s.reg x) →
    (∃ t, exec (.shiftRight x y) s = .next t ∧ OnlyRegs (fun r => r = x ∨ r = 15) s t ∧
      (x ≠ 15 → (t.reg x).toNat = v.toNat / 2) ∧ (t.reg 15).toNat = v.toNat % 2) ∧
    (∃ t, exec (.shiftLeft x y) s = .next t ∧ OnlyRegs (fun r => r = x ∨ r = 15) s t ∧
      (x ≠ 15 → (t.reg x).toNat = 2 * v.toNat % 256) ∧ (t.reg 15).toNat = v.toNat / 128)

/-- The two shift modes give the same result and flag exactly when the two source values are equal (90_conflicts.md
C12); with X = 15 the flag overwrites the result, so the pair is seen only for the other destinations. -/
def Obligations.ShiftModesAgreeExactlyOnEqualValues : Prop :=
  ∀ (x y : RegId) (s : State), x ≠ 15 →
    ∃ a b c d, exec (.shiftRight x y) (s.withQuirk .standard) = .next a ∧
      exec (.shiftRight x y) (s.withQuirk .legacy) = .next b ∧
      exec (.shiftLeft x y) (s.withQuirk .standard) = .next c ∧
      exec (.shiftLeft x y) (s.withQuirk .legacy) = .next d ∧
      ((a.reg x = b.reg x ∧ a.reg 15 = b.reg 15) ↔ s.reg x = s.reg y) ∧
      ((c.reg x = d.reg x ∧ c.reg 15 = d.reg 15) ↔ s.reg x = s.reg y)

/-! ### Index register and memory -/

/-- R180: SetIndex writes `I`. -/
def Obligations.SetIndexWritesI : Prop :=
  ∀ (nnn : Addr12) (s : State), ∃ t, exec (.setIndex nnn) s = .next t ∧ t.idx.toNat = nnn.toNat ∧ OnlyIndex s t

/-- AddIndex adds without masking and without a flag, or faults rather than pass 0xFFFF; FontChar selects the glyph of
the low nibble (43_memory_index.md, the spec's decisions D13, D14). -/
def Obligations.AddIndexAndFontChar : Prop :=
  ∀ (x : RegId) (s : State),
    (s.idx.toNat + (s.reg x).toNat ≤ 0xFFFF → ∃ t, exec (.addIndex x) s = .next t ∧
      t.idx.toNat = s.idx.toNat + (s.reg x).toNat ∧ OnlyIndex s t) ∧
    (0xFFFF < s.idx.toNat + (s.reg x).toNat → ∃ t, exec (.addIndex x) s = .next t ∧
      OnlyLatches .memoryRangeViolation s t) ∧
    (∃ t, exec (.fontChar x) s = .next t ∧ t.idx.toNat = 0x50 + 5 * ((s.reg x).toNat % 16) ∧ OnlyIndex s t)

/-- StoreBcd writes the three decimal digits at `I`, or faults with no byte written (43_memory_index.md, the spec's
decisions D5, D15). -/
def Obligations.StoreBcdWritesThreeDigits : Prop :=
  ∀ (x : RegId) (s : State),
    (s.base + 2 ≤ 4095 → ∃ t, exec (.storeBcd x) s = .next t ∧
      (t.byteAt s.base).toNat = (s.reg x).toNat / 100 ∧
      (t.byteAt (s.base + 1)).toNat = (s.reg x).toNat / 10 % 10 ∧
      (t.byteAt (s.base + 2)).toNat = (s.reg x).toNat % 10 ∧ OnlyBytes s.base 3 s t) ∧
    (4095 < s.base + 2 → ∃ t, exec (.storeBcd x) s = .next t ∧ OnlyLatches .memoryRangeViolation s t)

/-- StoreRegs stores registers 0 to X at `I` upward and leaves `I`, or faults with no byte written (43_memory_index.md,
the spec's decisions D5, D16). -/
def Obligations.StoreRegsStoresZeroToX : Prop :=
  ∀ (x : RegId) (s : State),
    (s.base + x.toNat ≤ 4095 → ∃ t, exec (.storeRegs x) s = .next t ∧
      (∀ r : RegId, r.toNat ≤ x.toNat → t.byteAt (s.base + r.toNat) = s.reg r) ∧
      OnlyBytes s.base (x.toNat + 1) s t) ∧
    (4095 < s.base + x.toNat → ∃ t, exec (.storeRegs x) s = .next t ∧ OnlyLatches .memoryRangeViolation s t)

/-- LoadRegs loads registers 0 to X from `I` upward and leaves `I` and memory, or faults with no register written
(43_memory_index.md, the spec's decisions D5, D16). -/
def Obligations.LoadRegsLoadsZeroToX : Prop :=
  ∀ (x : RegId) (s : State),
    (s.base + x.toNat ≤ 4095 → ∃ t, exec (.loadRegs x) s = .next t ∧
      (∀ r : RegId, r.toNat ≤ x.toNat → t.reg r = s.byteAt (s.base + r.toNat)) ∧
      OnlyRegs (fun r => r.toNat ≤ x.toNat) s t) ∧
    (4095 < s.base + x.toNat → ∃ t, exec (.loadRegs x) s = .next t ∧ OnlyLatches .memoryRangeViolation s t)

/-! ### Display -/

/-- R210: ClearScreen resets every pixel, marks the framebuffer changed, and touches nothing else. -/
def Obligations.ClearScreenResetsEveryPixel : Prop :=
  ∀ s : State, ∃ t, exec .clearScreen s = .next t ∧ (∀ x y, t.pixel x y = false) ∧ t.changedPort = true ∧
    t = { s with screen := t.screen } ∧ (∀ r, t.reg r = s.reg r) ∧ ∀ a, t.byteAt a = s.byteAt a

/-- Draw flips exactly the pixels under a set, untruncated sprite bit, sets `changed` when it has a row, and writes
only register 15 besides (44_display.md section 2; N = 0 is the spec's decision D6). -/
def Obligations.DrawFlipsExactlyTheSpritePixels : Prop :=
  ∀ (x y : RegId) (n : Nibble) (s : State), n = 0 ∨ s.base + n.toNat - 1 ≤ 4095 →
    ∃ t, exec (.draw x y n) s = .next t ∧ t = { s with x := t.x, screen := t.screen } ∧
      (∀ r, r ≠ 15 → t.reg r = s.reg r) ∧ (∀ a, t.byteAt a = s.byteAt a) ∧
      (t.changedPort = true ↔ s.changedPort = true ∨ n ≠ 0) ∧
      ∀ col row, col < 64 → row < 32 →
        (t.pixel col row = true ↔
          ¬ (s.pixel col row = true ↔ s.SpriteCovers (s.reg x).toNat (s.reg y).toNat n.toNat col row))

/-- Draw writes register 15, last and always: 1 if some set pixel lay under a set, untruncated sprite bit before the
instruction, else 0 (an inference of 44_display.md section 2). -/
def Obligations.DrawCollisionFlag : Prop :=
  ∀ (x y : RegId) (n : Nibble) (s : State), n = 0 ∨ s.base + n.toNat - 1 ≤ 4095 →
    ∃ t, exec (.draw x y n) s = .next t ∧ (t.reg 15 = 0 ∨ t.reg 15 = 1) ∧
      (t.reg 15 = 1 ↔ ∃ col row, col < 64 ∧ row < 32 ∧ s.pixel col row = true ∧
        s.SpriteCovers (s.reg x).toNat (s.reg y).toNat n.toNat col row)

/-- A Draw with a sprite byte above 4095 faults before any effect: the framebuffer, `changed` and register 15 stay
(44_display.md section 2; what the latch holds is the spec's decision D2). -/
def Obligations.DrawOutOfRangeChangesNothing : Prop :=
  ∀ (x y : RegId) (n : Nibble) (s : State), n ≠ 0 → 4095 < s.base + n.toNat - 1 →
    ∃ t, exec (.draw x y n) s = .next t ∧ OnlyLatches .memoryRangeViolation s t ∧
      t.screen = s.screen ∧ t.reg 15 = s.reg 15

/-- Drawing the same sprite twice at the same coordinates, the flag register restored in between, restores every pixel
(44_display.md section 2, "XOR involution"). -/
def Obligations.DrawTwiceRestoresThePicture : Prop :=
  ∀ (x y : RegId) (n : Nibble) (s : State), n = 0 ∨ s.base + n.toNat - 1 ≤ 4095 →
    ∃ t u, exec (.draw x y n) s = .next t ∧ exec (.draw x y n) { t with x := s.x } = .next u ∧
      ∀ col row, u.pixel col row = s.pixel col row

/-- The single-pixel primitives act on the one pixel their coordinates alias to, modulo 64 and 32, and set `changed`
(44_display.md section 1; that they return nothing is the spec's decision D26). -/
def Obligations.PixelPrimitivesActOnOnePixel : Prop :=
  ∀ (scr : Screen) (x y col row : Nat), col < 64 → row < 32 →
    ((scr.setPixel x y).getPixel col row = (scr.getPixel col row || decide (x % 64 = col ∧ y % 32 = row))) ∧
    ((scr.unsetPixel x y).getPixel col row = (scr.getPixel col row && !decide (x % 64 = col ∧ y % 32 = row))) ∧
    ((scr.flipPixel x y).getPixel col row = (scr.getPixel col row != decide (x % 64 = col ∧ y % 32 = row))) ∧
    (scr.setPixel x y).changed = true ∧ (scr.unsetPixel x y).changed = true ∧ (scr.flipPixel x y).changed = true

/-- The vectored primitives act on the pixels of one row under a set bit of the pattern, bit 7 leftmost, bits past
column 63 dropped, and set `changed`; `flipVectored` returns whether a set pixel was under a set bit; `getVectored`
reads 0 past column 63 (44_display.md section 1, the spec's decisions D8, D26). -/
def Obligations.VectoredPrimitivesActOnOneRow : Prop :=
  ∀ (scr : Screen) (p : Byte) (x y col row : Nat), col < 64 → row < 32 →
    ((scr.setVectored p x y).getPixel col row =
      (scr.getPixel col row || (decide (y % 32 = row) && patternCovers p x col))) ∧
    ((scr.unsetVectored p x y).getPixel col row =
      (scr.getPixel col row && !(decide (y % 32 = row) && patternCovers p x col))) ∧
    ((scr.flipVectored p x y).2.getPixel col row =
      (scr.getPixel col row != (decide (y % 32 = row) && patternCovers p x col))) ∧
    ((scr.flipVectored p x y).1 = true ↔ ∃ c, c < 64 ∧ scr.getPixel c y = true ∧ patternCovers p x c = true) ∧
    (scr.setVectored p x y).changed = true ∧ (scr.unsetVectored p x y).changed = true ∧
    (scr.flipVectored p x y).2.changed = true ∧
    ∀ k, k ≤ 7 → (scr.getVectored x y).getLsbD (7 - k) = (decide (x % 64 + k ≤ 63) && scr.getPixel (x % 64 + k) y)

/-- The host's read-out (44_display.md section 1) is the 2048 pixels in row-major order, each with its coordinates. -/
def Obligations.ReadOutIsRowMajor : Prop :=
  ∀ scr : Screen, scr.scan.length = 2048 ∧
    ∀ x y, x < 64 → y < 32 → scr.scan[64 * y + x]? = some (x, y, scr.getPixel x y)

/-! ### Random, timers, keys -/

/-- 45_timers_random_keys.md: Random writes the presented byte AND the mask and consumes it; nothing else changes. -/
def Obligations.RandomMasksThePresentedByte : Prop :=
  ∀ (x : RegId) (nn : Byte) (s : State), ∃ t, exec (.random x nn) s = .next t ∧
    (∀ k, (t.reg x).getLsbD k = (s.rnd.getLsbD k && nn.getLsbD k)) ∧ t.rndTakePort = true ∧
    t = { s with x := t.x, rndTake := true } ∧ (∀ r, r ≠ x → t.reg r = s.reg r) ∧ ∀ a, t.byteAt a = s.byteAt a

/-- GetDelay, SetDelay and SetSound move a byte between a register and a timer; `beep` is 1 exactly while the sound
timer is not 0 (45_timers_random_keys.md, the spec's decision D10). -/
def Obligations.TimerInstructionsMoveOneByte : Prop :=
  ∀ (x : RegId) (s : State),
    (∃ t, exec (.getDelay x) s = .next t ∧ t.reg x = s.dt ∧ OnlyRegs (· = x) s t) ∧
    (∃ t, exec (.setDelay x) s = .next t ∧ t.dt = s.reg x ∧ t = { s with dt := t.dt } ∧
      (∀ r, t.reg r = s.reg r) ∧ ∀ a, t.byteAt a = s.byteAt a) ∧
    (∃ t, exec (.setSound x) s = .next t ∧ t.st = s.reg x ∧ t = { s with st := t.st } ∧
      (t.beep = true ↔ (s.reg x).toNat ≠ 0) ∧ (∀ r, t.reg r = s.reg r) ∧ ∀ a, t.byteAt a = s.byteAt a)

/-- SkipKey and SkipNotKey test the key of the low nibble (45_timers_random_keys.md, the spec's decision D11). -/
def Obligations.KeySkipsTestTheLowNibbleKey : Prop :=
  ∀ (x : RegId) (s : State),
    (∃ t, exec (.skipKey x) s = .next t ∧ OnlyPc s t ∧
      t.pc = if s.keys.getLsbD ((s.reg x).toNat % 16) then s.pc + 2 else s.pc) ∧
    (∃ t, exec (.skipNotKey x) s = .next t ∧ OnlyPc s t ∧
      t.pc = if s.keys.getLsbD ((s.reg x).toNat % 16) then s.pc else s.pc + 2)

/-- WaitKey with no key down goes back by 2 and writes no register; otherwise it takes the lowest-numbered key down
(45_timers_random_keys.md, the spec's decision D12). -/
def Obligations.WaitKeyRepeatsOrTakesTheLowestKey : Prop :=
  ∀ (x : RegId) (s : State),
    (s.keys = 0 → ∃ t, exec (.waitKey x) s = .next t ∧ t.pc = s.pc - 2 ∧ OnlyPc s t) ∧
    (s.keys ≠ 0 → ∃ t k, exec (.waitKey x) s = .next t ∧ k < 16 ∧ s.keys.getLsbD k = true ∧
      (∀ j, j < k → s.keys.getLsbD j = false) ∧ (t.reg x).toNat = k ∧ OnlyRegs (· = x) s t)
end

