-- ==== Sys2Proof/Laws/Memory.lean ====
section
/-! SUPPORT. The laws of the memory array: a read after a write, and that every memory operation keeps the canonical
form. -/

namespace Sys2Proof.Machine

variable {font : Vector Byte 80}

@[simp] theorem Memory.find_nil (a : Nat) : Memory.find a [] = none := rfl

@[simp] theorem Memory.find_insert_same (m : Memory) (a : Nat) (b : Byte) : (m.insert a b).find a = some b := by
  induction m with
  | nil => simp [Memory.insert, Memory.find]
  | cons cell m ih =>
    obtain ⟨c, v⟩ := cell
    simp only [Memory.insert]
    split
    · rename_i h
      simp only [Memory.find, if_neg (show ¬c = a by omega)]
      exact ih
    · split <;> simp [Memory.find]

theorem Memory.find_insert_other (m : Memory) {a k : Nat} (b : Byte) (h : k ≠ a) :
    (m.insert a b).find k = m.find k := by
  have hk : ¬a = k := fun e => h e.symm
  induction m with
  | nil => simp [Memory.insert, Memory.find, hk]
  | cons cell m ih =>
    obtain ⟨c, v⟩ := cell
    simp only [Memory.insert]
    split
    · simp only [Memory.find, ih]
    · split
      · rename_i hc
        simp [Memory.find, hc, hk]
      · simp [Memory.find, hk]

@[simp] theorem Memory.find_erase_same (m : Memory) (a : Nat) : (m.erase a).find a = none := by
  induction m with
  | nil => rfl
  | cons cell m ih =>
    obtain ⟨c, v⟩ := cell
    by_cases hc : c = a <;> simp [Memory.erase, Memory.find, hc, ih]

theorem Memory.find_erase_other (m : Memory) {a k : Nat} (h : k ≠ a) : (m.erase a).find k = m.find k := by
  induction m with
  | nil => rfl
  | cons cell m ih =>
    obtain ⟨c, v⟩ := cell
    by_cases hc : c = a
    · subst hc
      simpa [Memory.erase, Memory.find, ih] using fun e : c = k => absurd e.symm h
    · simp [Memory.erase, Memory.find, hc, ih]

/-- A read after a write to the same address gives the byte written. -/
@[simp] theorem Memory.read_write_same (m : Memory) (a : Nat) (b : Byte) : (m.write font a b).read font a = b := by
  unfold Memory.write Memory.read
  split
  · rename_i h
    simp [h]
  · simp

/-- A write leaves every other address alone. -/
theorem Memory.read_write_other (m : Memory) {a k : Nat} (b : Byte) (h : k ≠ a) :
    (m.write font a b).read font k = m.read font k := by
  unfold Memory.write Memory.read
  split
  · rw [Memory.find_erase_other m h]
  · rw [Memory.find_insert_other m b h]

/-- A read after a write, both cases. -/
theorem Memory.read_write (m : Memory) (a k : Nat) (b : Byte) :
    (m.write font a b).read font k = if k = a then b else m.read font k := by
  split
  · rename_i h
    subst h
    simp
  · rename_i h
    exact Memory.read_write_other m b h

/-- What a read gives after a run of bytes was written. -/
theorem Memory.read_writeList (bs : List Byte) (m : Memory) (base k : Nat) :
    (m.writeList font base bs).read font k =
      if base ≤ k then (bs[k - base]?).getD (m.read font k) else m.read font k := by
  induction bs generalizing m base with
  | nil => simp [Memory.writeList]
  | cons b bs ih =>
    simp only [Memory.writeList, ih, Memory.read_write]
    rcases Nat.lt_trichotomy base k with h | h | h
    · have e : k - base = (k - (base + 1)) + 1 := by omega
      have hk : ¬k = base := by omega
      rw [if_pos (show base + 1 ≤ k from h), if_pos (Nat.le_of_lt h), if_neg hk, e, List.getElem?_cons_succ]
    · subst h
      simp
    · have hk : ¬k = base := by omega
      rw [if_neg (show ¬base + 1 ≤ k by omega), if_neg (show ¬base ≤ k by omega), if_neg hk]

@[simp] theorem Memory.length_readList (m : Memory) (base n : Nat) : (m.readList font base n).length = n := by
  induction n generalizing base with
  | zero => rfl
  | succ n ih => simp [Memory.readList, ih]

/-- Entry `k` of a run read from memory is the byte at `base + k`. -/
theorem Memory.getElem?_readList (m : Memory) (base n k : Nat) (h : k < n) :
    (m.readList font base n)[k]? = some (m.read font (base + k)) := by
  induction n generalizing base k with
  | zero => omega
  | succ n ih =>
    cases k with
    | zero => simp [Memory.readList]
    | succ k =>
      have e : base + 1 + k = base + (k + 1) := by omega
      simp [Memory.readList, ih (base + 1) k (by omega), e]

/-! ### The canonical form -/

theorem Memory.wfFrom_cons {lo c : Nat} {v : Byte} {m : Memory} :
    Memory.wfFrom font lo ((c, v) :: m) = true ↔
      lo ≤ c ∧ c < memorySize ∧ v ≠ resetByte font c ∧ Memory.wfFrom font (c + 1) m = true := by
  simp [Memory.wfFrom, and_assoc]

theorem Memory.wfFrom_mono {lo lo' : Nat} {m : Memory} (h : Memory.wfFrom font lo m = true) (le : lo' ≤ lo) :
    Memory.wfFrom font lo' m = true := by
  cases m with
  | nil => rfl
  | cons cell m =>
    obtain ⟨h1, h2⟩ := Memory.wfFrom_cons.mp h
    exact Memory.wfFrom_cons.mpr ⟨by omega, h2⟩

theorem Memory.wfFrom_erase {lo : Nat} {m : Memory} (a : Nat) (h : Memory.wfFrom font lo m = true) :
    Memory.wfFrom font lo (m.erase a) = true := by
  induction m generalizing lo with
  | nil => rfl
  | cons cell m ih =>
    obtain ⟨h1, h2, h3, h4⟩ := Memory.wfFrom_cons.mp h
    simp only [Memory.erase]
    split
    · exact Memory.wfFrom_mono (ih h4) (by omega)
    · exact Memory.wfFrom_cons.mpr ⟨h1, h2, h3, ih h4⟩

theorem Memory.wfFrom_insert {lo a : Nat} {b : Byte} {m : Memory} (h : Memory.wfFrom font lo m = true)
    (hlo : lo ≤ a) (ha : a < memorySize) (hb : b ≠ resetByte font a) :
    Memory.wfFrom font lo (m.insert a b) = true := by
  induction m generalizing lo with
  | nil => exact Memory.wfFrom_cons.mpr ⟨hlo, ha, hb, rfl⟩
  | cons cell m ih =>
    obtain ⟨c, v⟩ := cell
    obtain ⟨h1, h2, h3, h4⟩ := Memory.wfFrom_cons.mp h
    simp only [Memory.insert]
    split
    · exact Memory.wfFrom_cons.mpr ⟨h1, h2, h3, ih h4 (by omega)⟩
    · split
      · rename_i hc
        subst hc
        exact Memory.wfFrom_cons.mpr ⟨hlo, ha, hb, h4⟩
      · exact Memory.wfFrom_cons.mpr ⟨hlo, ha, hb, Memory.wfFrom_cons.mpr ⟨by omega, h2, h3, h4⟩⟩

/-- A write inside memory keeps the canonical form. -/
theorem Memory.wf_write {m : Memory} (h : m.wf font = true) {a : Nat} (ha : a < memorySize) (b : Byte) :
    (m.write font a b).wf font = true := by
  unfold Memory.write Memory.wf
  split
  · exact Memory.wfFrom_erase a h
  · rename_i hb
    exact Memory.wfFrom_insert h (Nat.zero_le a) ha hb

/-- Writing a run of bytes inside memory keeps the canonical form. -/
theorem Memory.wf_writeList {bs : List Byte} {m : Memory} {base : Nat} (h : m.wf font = true)
    (hb : bs = [] ∨ base + bs.length ≤ memorySize) : (m.writeList font base bs).wf font = true := by
  induction bs generalizing m base with
  | nil => exact h
  | cons b bs ih =>
    have hlen : base + (bs.length + 1) ≤ memorySize := by
      rcases hb with hb | hb
      · cases hb
      · simpa using hb
    exact ih (Memory.wf_write h (by omega) b) (Or.inr (by omega))

/-- The empty memory is canonical: reset memory is. -/
@[simp] theorem Memory.wf_nil : Memory.wf font [] = true := rfl

end Sys2Proof.Machine
end

