-- ==== Sys2Proof/Laws/State.lean ====
section
/-! SUPPORT. One lemma per field per update of State, each true by rfl, so that no proof unfolds a record update. -/

namespace Sys2Proof.Machine

variable (s : State)

/-! ### setReg -/

@[simp] theorem State.setReg_x (r : RegId) (v : Byte) : (s.setReg r v).x = s.x.set r.toNat v r.isLt := rfl
@[simp] theorem State.setReg_pc (r : RegId) (v : Byte) : (s.setReg r v).pc = s.pc := rfl
@[simp] theorem State.setReg_idx (r : RegId) (v : Byte) : (s.setReg r v).idx = s.idx := rfl
@[simp] theorem State.setReg_sp (r : RegId) (v : Byte) : (s.setReg r v).sp = s.sp := rfl
@[simp] theorem State.setReg_stack (r : RegId) (v : Byte) : (s.setReg r v).stack = s.stack := rfl
@[simp] theorem State.setReg_dt (r : RegId) (v : Byte) : (s.setReg r v).dt = s.dt := rfl
@[simp] theorem State.setReg_st (r : RegId) (v : Byte) : (s.setReg r v).st = s.st := rfl
@[simp] theorem State.setReg_mem (r : RegId) (v : Byte) : (s.setReg r v).mem = s.mem := rfl
@[simp] theorem State.setReg_screen (r : RegId) (v : Byte) : (s.setReg r v).screen = s.screen := rfl
@[simp] theorem State.setReg_cyc (r : RegId) (v : Byte) : (s.setReg r v).cyc = s.cyc := rfl
@[simp] theorem State.setReg_status (r : RegId) (v : Byte) : (s.setReg r v).status = s.status := rfl
@[simp] theorem State.setReg_faultCause (r : RegId) (v : Byte) : (s.setReg r v).faultCause = s.faultCause := rfl
@[simp] theorem State.setReg_faultAddr (r : RegId) (v : Byte) : (s.setReg r v).faultAddr = s.faultAddr := rfl
@[simp] theorem State.setReg_faultWord (r : RegId) (v : Byte) : (s.setReg r v).faultWord = s.faultWord := rfl
@[simp] theorem State.setReg_cfg (r : RegId) (v : Byte) : (s.setReg r v).cfg = s.cfg := rfl
@[simp] theorem State.setReg_keys (r : RegId) (v : Byte) : (s.setReg r v).keys = s.keys := rfl
@[simp] theorem State.setReg_rnd (r : RegId) (v : Byte) : (s.setReg r v).rnd = s.rnd := rfl
@[simp] theorem State.setReg_rndTake (r : RegId) (v : Byte) : (s.setReg r v).rndTake = s.rndTake := rfl
@[simp] theorem State.setReg_pending (r : RegId) (v : Byte) : (s.setReg r v).pending = s.pending := rfl
@[simp] theorem State.setReg_draws (r : RegId) (v : Byte) : (s.setReg r v).draws = s.draws := rfl

/-! ### setPc -/

@[simp] theorem State.setPc_x (a : Addr) : (s.setPc a).x = s.x := rfl
@[simp] theorem State.setPc_pc (a : Addr) : (s.setPc a).pc = a := rfl
@[simp] theorem State.setPc_idx (a : Addr) : (s.setPc a).idx = s.idx := rfl
@[simp] theorem State.setPc_sp (a : Addr) : (s.setPc a).sp = s.sp := rfl
@[simp] theorem State.setPc_stack (a : Addr) : (s.setPc a).stack = s.stack := rfl
@[simp] theorem State.setPc_dt (a : Addr) : (s.setPc a).dt = s.dt := rfl
@[simp] theorem State.setPc_st (a : Addr) : (s.setPc a).st = s.st := rfl
@[simp] theorem State.setPc_mem (a : Addr) : (s.setPc a).mem = s.mem := rfl
@[simp] theorem State.setPc_screen (a : Addr) : (s.setPc a).screen = s.screen := rfl
@[simp] theorem State.setPc_cyc (a : Addr) : (s.setPc a).cyc = s.cyc := rfl
@[simp] theorem State.setPc_status (a : Addr) : (s.setPc a).status = s.status := rfl
@[simp] theorem State.setPc_faultCause (a : Addr) : (s.setPc a).faultCause = s.faultCause := rfl
@[simp] theorem State.setPc_faultAddr (a : Addr) : (s.setPc a).faultAddr = s.faultAddr := rfl
@[simp] theorem State.setPc_faultWord (a : Addr) : (s.setPc a).faultWord = s.faultWord := rfl
@[simp] theorem State.setPc_cfg (a : Addr) : (s.setPc a).cfg = s.cfg := rfl
@[simp] theorem State.setPc_keys (a : Addr) : (s.setPc a).keys = s.keys := rfl
@[simp] theorem State.setPc_rnd (a : Addr) : (s.setPc a).rnd = s.rnd := rfl
@[simp] theorem State.setPc_rndTake (a : Addr) : (s.setPc a).rndTake = s.rndTake := rfl
@[simp] theorem State.setPc_pending (a : Addr) : (s.setPc a).pending = s.pending := rfl
@[simp] theorem State.setPc_draws (a : Addr) : (s.setPc a).draws = s.draws := rfl

/-! ### setIndex -/

@[simp] theorem State.setIndex_x (a : Addr) : (s.setIndex a).x = s.x := rfl
@[simp] theorem State.setIndex_pc (a : Addr) : (s.setIndex a).pc = s.pc := rfl
@[simp] theorem State.setIndex_idx (a : Addr) : (s.setIndex a).idx = a := rfl
@[simp] theorem State.setIndex_sp (a : Addr) : (s.setIndex a).sp = s.sp := rfl
@[simp] theorem State.setIndex_stack (a : Addr) : (s.setIndex a).stack = s.stack := rfl
@[simp] theorem State.setIndex_dt (a : Addr) : (s.setIndex a).dt = s.dt := rfl
@[simp] theorem State.setIndex_st (a : Addr) : (s.setIndex a).st = s.st := rfl
@[simp] theorem State.setIndex_mem (a : Addr) : (s.setIndex a).mem = s.mem := rfl
@[simp] theorem State.setIndex_screen (a : Addr) : (s.setIndex a).screen = s.screen := rfl
@[simp] theorem State.setIndex_cyc (a : Addr) : (s.setIndex a).cyc = s.cyc := rfl
@[simp] theorem State.setIndex_status (a : Addr) : (s.setIndex a).status = s.status := rfl
@[simp] theorem State.setIndex_faultCause (a : Addr) : (s.setIndex a).faultCause = s.faultCause := rfl
@[simp] theorem State.setIndex_faultAddr (a : Addr) : (s.setIndex a).faultAddr = s.faultAddr := rfl
@[simp] theorem State.setIndex_faultWord (a : Addr) : (s.setIndex a).faultWord = s.faultWord := rfl
@[simp] theorem State.setIndex_cfg (a : Addr) : (s.setIndex a).cfg = s.cfg := rfl
@[simp] theorem State.setIndex_keys (a : Addr) : (s.setIndex a).keys = s.keys := rfl
@[simp] theorem State.setIndex_rnd (a : Addr) : (s.setIndex a).rnd = s.rnd := rfl
@[simp] theorem State.setIndex_rndTake (a : Addr) : (s.setIndex a).rndTake = s.rndTake := rfl
@[simp] theorem State.setIndex_pending (a : Addr) : (s.setIndex a).pending = s.pending := rfl
@[simp] theorem State.setIndex_draws (a : Addr) : (s.setIndex a).draws = s.draws := rfl

/-! ### setDelay -/

@[simp] theorem State.setDelay_x (v : Byte) : (s.setDelay v).x = s.x := rfl
@[simp] theorem State.setDelay_pc (v : Byte) : (s.setDelay v).pc = s.pc := rfl
@[simp] theorem State.setDelay_idx (v : Byte) : (s.setDelay v).idx = s.idx := rfl
@[simp] theorem State.setDelay_sp (v : Byte) : (s.setDelay v).sp = s.sp := rfl
@[simp] theorem State.setDelay_stack (v : Byte) : (s.setDelay v).stack = s.stack := rfl
@[simp] theorem State.setDelay_dt (v : Byte) : (s.setDelay v).dt = v := rfl
@[simp] theorem State.setDelay_st (v : Byte) : (s.setDelay v).st = s.st := rfl
@[simp] theorem State.setDelay_mem (v : Byte) : (s.setDelay v).mem = s.mem := rfl
@[simp] theorem State.setDelay_screen (v : Byte) : (s.setDelay v).screen = s.screen := rfl
@[simp] theorem State.setDelay_cyc (v : Byte) : (s.setDelay v).cyc = s.cyc := rfl
@[simp] theorem State.setDelay_status (v : Byte) : (s.setDelay v).status = s.status := rfl
@[simp] theorem State.setDelay_faultCause (v : Byte) : (s.setDelay v).faultCause = s.faultCause := rfl
@[simp] theorem State.setDelay_faultAddr (v : Byte) : (s.setDelay v).faultAddr = s.faultAddr := rfl
@[simp] theorem State.setDelay_faultWord (v : Byte) : (s.setDelay v).faultWord = s.faultWord := rfl
@[simp] theorem State.setDelay_cfg (v : Byte) : (s.setDelay v).cfg = s.cfg := rfl
@[simp] theorem State.setDelay_keys (v : Byte) : (s.setDelay v).keys = s.keys := rfl
@[simp] theorem State.setDelay_rnd (v : Byte) : (s.setDelay v).rnd = s.rnd := rfl
@[simp] theorem State.setDelay_rndTake (v : Byte) : (s.setDelay v).rndTake = s.rndTake := rfl
@[simp] theorem State.setDelay_pending (v : Byte) : (s.setDelay v).pending = s.pending := rfl
@[simp] theorem State.setDelay_draws (v : Byte) : (s.setDelay v).draws = s.draws := rfl

/-! ### setSound -/

@[simp] theorem State.setSound_x (v : Byte) : (s.setSound v).x = s.x := rfl
@[simp] theorem State.setSound_pc (v : Byte) : (s.setSound v).pc = s.pc := rfl
@[simp] theorem State.setSound_idx (v : Byte) : (s.setSound v).idx = s.idx := rfl
@[simp] theorem State.setSound_sp (v : Byte) : (s.setSound v).sp = s.sp := rfl
@[simp] theorem State.setSound_stack (v : Byte) : (s.setSound v).stack = s.stack := rfl
@[simp] theorem State.setSound_dt (v : Byte) : (s.setSound v).dt = s.dt := rfl
@[simp] theorem State.setSound_st (v : Byte) : (s.setSound v).st = v := rfl
@[simp] theorem State.setSound_mem (v : Byte) : (s.setSound v).mem = s.mem := rfl
@[simp] theorem State.setSound_screen (v : Byte) : (s.setSound v).screen = s.screen := rfl
@[simp] theorem State.setSound_cyc (v : Byte) : (s.setSound v).cyc = s.cyc := rfl
@[simp] theorem State.setSound_status (v : Byte) : (s.setSound v).status = s.status := rfl
@[simp] theorem State.setSound_faultCause (v : Byte) : (s.setSound v).faultCause = s.faultCause := rfl
@[simp] theorem State.setSound_faultAddr (v : Byte) : (s.setSound v).faultAddr = s.faultAddr := rfl
@[simp] theorem State.setSound_faultWord (v : Byte) : (s.setSound v).faultWord = s.faultWord := rfl
@[simp] theorem State.setSound_cfg (v : Byte) : (s.setSound v).cfg = s.cfg := rfl
@[simp] theorem State.setSound_keys (v : Byte) : (s.setSound v).keys = s.keys := rfl
@[simp] theorem State.setSound_rnd (v : Byte) : (s.setSound v).rnd = s.rnd := rfl
@[simp] theorem State.setSound_rndTake (v : Byte) : (s.setSound v).rndTake = s.rndTake := rfl
@[simp] theorem State.setSound_pending (v : Byte) : (s.setSound v).pending = s.pending := rfl
@[simp] theorem State.setSound_draws (v : Byte) : (s.setSound v).draws = s.draws := rfl

/-! ### takeRnd -/

@[simp] theorem State.takeRnd_x : (s.takeRnd).x = s.x := rfl
@[simp] theorem State.takeRnd_pc : (s.takeRnd).pc = s.pc := rfl
@[simp] theorem State.takeRnd_idx : (s.takeRnd).idx = s.idx := rfl
@[simp] theorem State.takeRnd_sp : (s.takeRnd).sp = s.sp := rfl
@[simp] theorem State.takeRnd_stack : (s.takeRnd).stack = s.stack := rfl
@[simp] theorem State.takeRnd_dt : (s.takeRnd).dt = s.dt := rfl
@[simp] theorem State.takeRnd_st : (s.takeRnd).st = s.st := rfl
@[simp] theorem State.takeRnd_mem : (s.takeRnd).mem = s.mem := rfl
@[simp] theorem State.takeRnd_screen : (s.takeRnd).screen = s.screen := rfl
@[simp] theorem State.takeRnd_cyc : (s.takeRnd).cyc = s.cyc := rfl
@[simp] theorem State.takeRnd_status : (s.takeRnd).status = s.status := rfl
@[simp] theorem State.takeRnd_faultCause : (s.takeRnd).faultCause = s.faultCause := rfl
@[simp] theorem State.takeRnd_faultAddr : (s.takeRnd).faultAddr = s.faultAddr := rfl
@[simp] theorem State.takeRnd_faultWord : (s.takeRnd).faultWord = s.faultWord := rfl
@[simp] theorem State.takeRnd_cfg : (s.takeRnd).cfg = s.cfg := rfl
@[simp] theorem State.takeRnd_keys : (s.takeRnd).keys = s.keys := rfl
@[simp] theorem State.takeRnd_rnd : (s.takeRnd).rnd = s.rnd := rfl
@[simp] theorem State.takeRnd_rndTake : (s.takeRnd).rndTake = true := rfl
@[simp] theorem State.takeRnd_pending : (s.takeRnd).pending = s.pending := rfl
@[simp] theorem State.takeRnd_draws : (s.takeRnd).draws = s.draws := rfl

/-! ### setScreen -/

@[simp] theorem State.setScreen_x (scr : Screen) : (s.setScreen scr).x = s.x := rfl
@[simp] theorem State.setScreen_pc (scr : Screen) : (s.setScreen scr).pc = s.pc := rfl
@[simp] theorem State.setScreen_idx (scr : Screen) : (s.setScreen scr).idx = s.idx := rfl
@[simp] theorem State.setScreen_sp (scr : Screen) : (s.setScreen scr).sp = s.sp := rfl
@[simp] theorem State.setScreen_stack (scr : Screen) : (s.setScreen scr).stack = s.stack := rfl
@[simp] theorem State.setScreen_dt (scr : Screen) : (s.setScreen scr).dt = s.dt := rfl
@[simp] theorem State.setScreen_st (scr : Screen) : (s.setScreen scr).st = s.st := rfl
@[simp] theorem State.setScreen_mem (scr : Screen) : (s.setScreen scr).mem = s.mem := rfl
@[simp] theorem State.setScreen_screen (scr : Screen) : (s.setScreen scr).screen = scr := rfl
@[simp] theorem State.setScreen_cyc (scr : Screen) : (s.setScreen scr).cyc = s.cyc := rfl
@[simp] theorem State.setScreen_status (scr : Screen) : (s.setScreen scr).status = s.status := rfl
@[simp] theorem State.setScreen_faultCause (scr : Screen) : (s.setScreen scr).faultCause = s.faultCause := rfl
@[simp] theorem State.setScreen_faultAddr (scr : Screen) : (s.setScreen scr).faultAddr = s.faultAddr := rfl
@[simp] theorem State.setScreen_faultWord (scr : Screen) : (s.setScreen scr).faultWord = s.faultWord := rfl
@[simp] theorem State.setScreen_cfg (scr : Screen) : (s.setScreen scr).cfg = s.cfg := rfl
@[simp] theorem State.setScreen_keys (scr : Screen) : (s.setScreen scr).keys = s.keys := rfl
@[simp] theorem State.setScreen_rnd (scr : Screen) : (s.setScreen scr).rnd = s.rnd := rfl
@[simp] theorem State.setScreen_rndTake (scr : Screen) : (s.setScreen scr).rndTake = s.rndTake := rfl
@[simp] theorem State.setScreen_pending (scr : Screen) : (s.setScreen scr).pending = s.pending := rfl
@[simp] theorem State.setScreen_draws (scr : Screen) : (s.setScreen scr).draws = s.draws := rfl

/-! ### raise -/

@[simp] theorem State.raise_x (c : FaultCause) (addr : Addr) (w : Word) : (s.raise c addr w).x = s.x := rfl
@[simp] theorem State.raise_pc (c : FaultCause) (addr : Addr) (w : Word) : (s.raise c addr w).pc = s.pc := rfl
@[simp] theorem State.raise_idx (c : FaultCause) (addr : Addr) (w : Word) : (s.raise c addr w).idx = s.idx := rfl
@[simp] theorem State.raise_sp (c : FaultCause) (addr : Addr) (w : Word) : (s.raise c addr w).sp = s.sp := rfl
@[simp] theorem State.raise_stack (c : FaultCause) (addr : Addr) (w : Word) : (s.raise c addr w).stack = s.stack := rfl
@[simp] theorem State.raise_dt (c : FaultCause) (addr : Addr) (w : Word) : (s.raise c addr w).dt = s.dt := rfl
@[simp] theorem State.raise_st (c : FaultCause) (addr : Addr) (w : Word) : (s.raise c addr w).st = s.st := rfl
@[simp] theorem State.raise_mem (c : FaultCause) (addr : Addr) (w : Word) : (s.raise c addr w).mem = s.mem := rfl
@[simp] theorem State.raise_screen (c : FaultCause) (addr : Addr) (w : Word) : (s.raise c addr w).screen = s.screen := rfl
@[simp] theorem State.raise_cyc (c : FaultCause) (addr : Addr) (w : Word) : (s.raise c addr w).cyc = s.cyc := rfl
@[simp] theorem State.raise_status (c : FaultCause) (addr : Addr) (w : Word) : (s.raise c addr w).status = .fault := rfl
@[simp] theorem State.raise_faultCause (c : FaultCause) (addr : Addr) (w : Word) : (s.raise c addr w).faultCause = c := rfl
@[simp] theorem State.raise_faultAddr (c : FaultCause) (addr : Addr) (w : Word) : (s.raise c addr w).faultAddr = addr := rfl
@[simp] theorem State.raise_faultWord (c : FaultCause) (addr : Addr) (w : Word) : (s.raise c addr w).faultWord = w := rfl
@[simp] theorem State.raise_cfg (c : FaultCause) (addr : Addr) (w : Word) : (s.raise c addr w).cfg = s.cfg := rfl
@[simp] theorem State.raise_keys (c : FaultCause) (addr : Addr) (w : Word) : (s.raise c addr w).keys = s.keys := rfl
@[simp] theorem State.raise_rnd (c : FaultCause) (addr : Addr) (w : Word) : (s.raise c addr w).rnd = s.rnd := rfl
@[simp] theorem State.raise_rndTake (c : FaultCause) (addr : Addr) (w : Word) : (s.raise c addr w).rndTake = s.rndTake := rfl
@[simp] theorem State.raise_pending (c : FaultCause) (addr : Addr) (w : Word) : (s.raise c addr w).pending = s.pending := rfl
@[simp] theorem State.raise_draws (c : FaultCause) (addr : Addr) (w : Word) : (s.raise c addr w).draws = s.draws := rfl

/-! ### raiseBy -/

@[simp] theorem State.raiseBy_x (i : Instr) (c : FaultCause) : (s.raiseBy i c).x = s.x := rfl
@[simp] theorem State.raiseBy_pc (i : Instr) (c : FaultCause) : (s.raiseBy i c).pc = s.pc := rfl
@[simp] theorem State.raiseBy_idx (i : Instr) (c : FaultCause) : (s.raiseBy i c).idx = s.idx := rfl
@[simp] theorem State.raiseBy_sp (i : Instr) (c : FaultCause) : (s.raiseBy i c).sp = s.sp := rfl
@[simp] theorem State.raiseBy_stack (i : Instr) (c : FaultCause) : (s.raiseBy i c).stack = s.stack := rfl
@[simp] theorem State.raiseBy_dt (i : Instr) (c : FaultCause) : (s.raiseBy i c).dt = s.dt := rfl
@[simp] theorem State.raiseBy_st (i : Instr) (c : FaultCause) : (s.raiseBy i c).st = s.st := rfl
@[simp] theorem State.raiseBy_mem (i : Instr) (c : FaultCause) : (s.raiseBy i c).mem = s.mem := rfl
@[simp] theorem State.raiseBy_screen (i : Instr) (c : FaultCause) : (s.raiseBy i c).screen = s.screen := rfl
@[simp] theorem State.raiseBy_cyc (i : Instr) (c : FaultCause) : (s.raiseBy i c).cyc = s.cyc := rfl
@[simp] theorem State.raiseBy_status (i : Instr) (c : FaultCause) : (s.raiseBy i c).status = .fault := rfl
@[simp] theorem State.raiseBy_faultCause (i : Instr) (c : FaultCause) : (s.raiseBy i c).faultCause = c := rfl
@[simp] theorem State.raiseBy_faultAddr (i : Instr) (c : FaultCause) : (s.raiseBy i c).faultAddr = s.pc - 2 := rfl
@[simp] theorem State.raiseBy_faultWord (i : Instr) (c : FaultCause) : (s.raiseBy i c).faultWord = encode i := rfl
@[simp] theorem State.raiseBy_cfg (i : Instr) (c : FaultCause) : (s.raiseBy i c).cfg = s.cfg := rfl
@[simp] theorem State.raiseBy_keys (i : Instr) (c : FaultCause) : (s.raiseBy i c).keys = s.keys := rfl
@[simp] theorem State.raiseBy_rnd (i : Instr) (c : FaultCause) : (s.raiseBy i c).rnd = s.rnd := rfl
@[simp] theorem State.raiseBy_rndTake (i : Instr) (c : FaultCause) : (s.raiseBy i c).rndTake = s.rndTake := rfl
@[simp] theorem State.raiseBy_pending (i : Instr) (c : FaultCause) : (s.raiseBy i c).pending = s.pending := rfl
@[simp] theorem State.raiseBy_draws (i : Instr) (c : FaultCause) : (s.raiseBy i c).draws = s.draws := rfl

/-! ### clearChanged -/

@[simp] theorem State.clearChanged_x : (s.clearChanged).x = s.x := rfl
@[simp] theorem State.clearChanged_pc : (s.clearChanged).pc = s.pc := rfl
@[simp] theorem State.clearChanged_idx : (s.clearChanged).idx = s.idx := rfl
@[simp] theorem State.clearChanged_sp : (s.clearChanged).sp = s.sp := rfl
@[simp] theorem State.clearChanged_stack : (s.clearChanged).stack = s.stack := rfl
@[simp] theorem State.clearChanged_dt : (s.clearChanged).dt = s.dt := rfl
@[simp] theorem State.clearChanged_st : (s.clearChanged).st = s.st := rfl
@[simp] theorem State.clearChanged_mem : (s.clearChanged).mem = s.mem := rfl
@[simp] theorem State.clearChanged_screen : (s.clearChanged).screen = s.screen.resetChangedFlag := rfl
@[simp] theorem State.clearChanged_cyc : (s.clearChanged).cyc = s.cyc := rfl
@[simp] theorem State.clearChanged_status : (s.clearChanged).status = s.status := rfl
@[simp] theorem State.clearChanged_faultCause : (s.clearChanged).faultCause = s.faultCause := rfl
@[simp] theorem State.clearChanged_faultAddr : (s.clearChanged).faultAddr = s.faultAddr := rfl
@[simp] theorem State.clearChanged_faultWord : (s.clearChanged).faultWord = s.faultWord := rfl
@[simp] theorem State.clearChanged_cfg : (s.clearChanged).cfg = s.cfg := rfl
@[simp] theorem State.clearChanged_keys : (s.clearChanged).keys = s.keys := rfl
@[simp] theorem State.clearChanged_rnd : (s.clearChanged).rnd = s.rnd := rfl
@[simp] theorem State.clearChanged_rndTake : (s.clearChanged).rndTake = false := rfl
@[simp] theorem State.clearChanged_pending : (s.clearChanged).pending = s.pending := rfl
@[simp] theorem State.clearChanged_draws : (s.clearChanged).draws = s.draws := rfl

/-! ### advance -/

@[simp] theorem State.advance_x : (s.advance).x = s.x := rfl
@[simp] theorem State.advance_pc : (s.advance).pc = s.pc + 2 := rfl
@[simp] theorem State.advance_idx : (s.advance).idx = s.idx := rfl
@[simp] theorem State.advance_sp : (s.advance).sp = s.sp := rfl
@[simp] theorem State.advance_stack : (s.advance).stack = s.stack := rfl
@[simp] theorem State.advance_dt : (s.advance).dt = s.dt := rfl
@[simp] theorem State.advance_st : (s.advance).st = s.st := rfl
@[simp] theorem State.advance_mem : (s.advance).mem = s.mem := rfl
@[simp] theorem State.advance_screen : (s.advance).screen = s.screen := rfl
@[simp] theorem State.advance_cyc : (s.advance).cyc = s.cyc := rfl
@[simp] theorem State.advance_status : (s.advance).status = s.status := rfl
@[simp] theorem State.advance_faultCause : (s.advance).faultCause = s.faultCause := rfl
@[simp] theorem State.advance_faultAddr : (s.advance).faultAddr = s.faultAddr := rfl
@[simp] theorem State.advance_faultWord : (s.advance).faultWord = s.faultWord := rfl
@[simp] theorem State.advance_cfg : (s.advance).cfg = s.cfg := rfl
@[simp] theorem State.advance_keys : (s.advance).keys = s.keys := rfl
@[simp] theorem State.advance_rnd : (s.advance).rnd = s.rnd := rfl
@[simp] theorem State.advance_rndTake : (s.advance).rndTake = s.rndTake := rfl
@[simp] theorem State.advance_pending : (s.advance).pending = s.pending := rfl
@[simp] theorem State.advance_draws : (s.advance).draws = s.draws := rfl

end Sys2Proof.Machine
end

