-- ==== Sys2Proof/Laws/Ops.lean ====
section
/-! SUPPORT. One lemma per shared operation, saying once everything it can do. -/

namespace Sys2Proof.Machine

/-! ### Registers -/

theorem State.reg_setReg (s : State) (r q : RegId) (v : Byte) :
    (s.setReg r v).reg q = if q = r then v else s.reg q := by
  simp only [State.reg, State.setReg_x, Vector.getElem_set]
  by_cases h : q = r
  · simp [h]
  · have hn : ¬r.toNat = q.toNat := fun e => h (BitVec.eq_of_toNat_eq e.symm)
    simp [h, hn]

@[simp] theorem State.reg_setReg_same (s : State) (r : RegId) (v : Byte) : (s.setReg r v).reg r = v := by
  simp [State.reg_setReg]

theorem State.reg_setReg_other (s : State) {r q : RegId} (v : Byte) (h : q ≠ r) :
    (s.setReg r v).reg q = s.reg q := by
  simp [State.reg_setReg, h]

theorem State.setReg_eq (s : State) (r : RegId) (v : Byte) :
    s.setReg r v = { s with x := (s.setReg r v).x } := rfl

/-- Result first, flag last: with the flag register as destination the flag remains (R15). -/
theorem State.reg_setRegFlag (s : State) (r q : RegId) (v flag : Byte) :
    (s.setRegFlag r v flag).reg q = if q = flagReg then flag else if q = r then v else s.reg q := by
  simp [State.setRegFlag, State.reg_setReg]

theorem State.setRegFlag_eq (s : State) (r : RegId) (v flag : Byte) :
    s.setRegFlag r v flag = { s with x := (s.setRegFlag r v flag).x } := rfl

theorem State.setRegsFrom_eq (s : State) (k : Nat) (bs : List Byte) :
    s.setRegsFrom k bs = { s with x := (s.setRegsFrom k bs).x } := by
  induction bs generalizing s k with
  | nil => rfl
  | cons b bs ih =>
    simp only [State.setRegsFrom]
    rw [ih]
    rfl

/-- Register `r` receives byte `r - k` of the run, if the run reaches it. -/
theorem State.reg_setRegsFrom (s : State) (k : Nat) (bs : List Byte) (r : RegId) (hk : k + bs.length ≤ 16) :
    (s.setRegsFrom k bs).reg r =
      if k ≤ r.toNat then (bs[r.toNat - k]?).getD (s.reg r) else s.reg r := by
  induction bs generalizing s k with
  | nil => simp [State.setRegsFrom]
  | cons b bs ih =>
    simp only [List.length_cons] at hk
    simp only [State.setRegsFrom]
    rw [ih _ _ (by omega), State.reg_setReg]
    have hkr : r = BitVec.ofNat 4 k ↔ r.toNat = k := by
      constructor
      · intro h
        rw [h, BitVec.toNat_ofNat]
        exact Nat.mod_eq_of_lt (by omega)
      · intro h
        apply BitVec.eq_of_toNat_eq
        rw [BitVec.toNat_ofNat, Nat.mod_eq_of_lt (by omega), h]
    rcases Nat.lt_trichotomy k r.toNat with h | h | h
    · have e : r.toNat - k = (r.toNat - (k + 1)) + 1 := by omega
      have hne : ¬r = BitVec.ofNat 4 k := by
        rw [hkr]
        omega
      rw [if_pos (show k + 1 ≤ r.toNat from h), if_pos (Nat.le_of_lt h), if_neg hne, e, List.getElem?_cons_succ]
    · have heq : r = BitVec.ofNat 4 k := hkr.mpr h.symm
      simp [if_pos heq, ← h]
    · have hne : ¬r = BitVec.ofNat 4 k := by
        rw [hkr]
        omega
      rw [if_neg (show ¬k + 1 ≤ r.toNat by omega), if_neg (show ¬k ≤ r.toNat by omega), if_neg hne]

@[simp] theorem State.length_regsUpTo (s : State) (x : RegId) : (s.regsUpTo x).length = x.toNat + 1 := by
  simp [State.regsUpTo]

theorem State.getElem?_regsUpTo (s : State) (x : RegId) (k : Nat) (h : k ≤ x.toNat) :
    (s.regsUpTo x)[k]? = some (s.reg (BitVec.ofNat 4 k)) := by
  simp [State.regsUpTo, List.getElem?_map, List.getElem?_range (show k < x.toNat + 1 by omega)]

/-! ### Skips -/

theorem State.skipIf_eq (s : State) (c : Bool) :
    s.skipIf c = { s with pc := if c then s.pc + 2 else s.pc } := by
  cases c <;> rfl

/-! ### Memory -/

theorem inRange_iff (base n : Nat) : inRange base n = true ↔ n = 0 ∨ base + n ≤ memorySize := by
  simp [inRange, memorySize]

/-- A load answers the bytes of its range, or the range leaves memory. -/
theorem State.loadBytes_cases (s : State) (base n : Nat) :
    (inRange base n = true ∧ s.loadBytes base n = some (s.mem.readList s.cfg.font base n)) ∨
      (inRange base n = false ∧ s.loadBytes base n = none) := by
  cases h : inRange base n <;> simp [State.loadBytes, h]

/-- A store answers the state with its bytes written, or the range leaves memory. -/
theorem State.storeBytes_cases (s : State) (base : Nat) (bs : List Byte) :
    (inRange base bs.length = true ∧
        s.storeBytes base bs = some { s with mem := s.mem.writeList s.cfg.font base bs }) ∨
      (inRange base bs.length = false ∧ s.storeBytes base bs = none) := by
  cases h : inRange base bs.length <;> simp [State.storeBytes, h]

/-- A byte read after a store. -/
theorem State.byteAt_storeBytes {s t : State} {base : Nat} {bs : List Byte} (h : s.storeBytes base bs = some t)
    (a : Nat) :
    t.byteAt a = if base ≤ a then (bs[a - base]?).getD (s.byteAt a) else s.byteAt a := by
  rcases State.storeBytes_cases s base bs with ⟨-, e⟩ | ⟨-, e⟩
  · rw [e] at h
    cases h
    exact Memory.read_writeList bs s.mem base a
  · rw [e] at h
    cases h

/-- A store inside memory keeps the canonical form. -/
theorem State.wf_storeBytes {s t : State} {base : Nat} {bs : List Byte} (h : s.storeBytes base bs = some t)
    (hs : s.mem.wf s.cfg.font = true) : t.mem.wf t.cfg.font = true := by
  rcases State.storeBytes_cases s base bs with ⟨hr, e⟩ | ⟨-, e⟩
  · rw [e] at h
    cases h
    refine Memory.wf_writeList hs ?_
    rcases (inRange_iff base bs.length).mp hr with h0 | h0
    · exact Or.inl (List.length_eq_zero_iff.mp h0)
    · exact Or.inr h0
  · rw [e] at h
    cases h

theorem State.memRead2_cases (s : State) (a : Nat) :
    (a ≤ 4094 ∧ s.memRead2 a = some (wordOfBytes (s.byteAt a) (s.byteAt (a + 1)))) ∨
      (4095 ≤ a ∧ s.memRead2 a = none) := by
  unfold State.memRead2
  by_cases h : a ≤ 4094
  · left
    have : inRange a 2 = true := by
      rw [inRange_iff]
      simp [memorySize]
      omega
    simp [h, this]
  · right
    have : inRange a 2 = false := by
      rw [Bool.eq_false_iff, Ne, inRange_iff]
      simp [memorySize]
      omega
    exact ⟨by omega, by simp [this]⟩

/-! ### The call stack -/

/-- A push fills the slot at `sp`, or the stack is full. -/
theorem State.push_cases (s : State) (a : Addr) :
    (∃ (h : s.sp.val < 16), s.push a =
        some { s with stack := s.stack.set s.sp.val a h, sp := ⟨s.sp.val + 1, by omega⟩ }) ∨
      (s.sp.val = 16 ∧ s.push a = none) := by
  by_cases h : s.sp.val < 16
  · exact Or.inl ⟨h, by simp [State.push, h]⟩
  · exact Or.inr ⟨by omega, by simp [State.push, h]⟩

/-- A pop answers the newest slot, or the stack is empty. -/
theorem State.pop_cases (s : State) :
    (∃ (h : 0 < s.sp.val), s.pop =
        some (s.stack[s.sp.val - 1]'(by omega), { s with sp := ⟨s.sp.val - 1, by omega⟩ })) ∨
      (s.sp.val = 0 ∧ s.pop = none) := by
  by_cases h : 0 < s.sp.val
  · exact Or.inl ⟨h, by simp [State.pop, h]⟩
  · exact Or.inr ⟨by omega, by simp [State.pop, h]⟩

/-! ### Inputs, timers -/

/-- The inputs of a step change the two ports and the model's own two fields, nothing else. -/
theorem State.sampleInputs_eq (s : State) :
    ∃ keys rnd pending draws,
      s.sampleInputs = { s with keys := keys, rnd := rnd, pending := pending, draws := draws } := by
  unfold State.sampleInputs
  split
  · exact ⟨_, _, _, s.draws, rfl⟩
  · rename_i h
    exact ⟨_, _, [], _, by rw [← h]⟩

theorem State.tick_eq (s : State) :
    s.tick = { s with
      cyc := s.cyc + 1
      dt := if (s.cyc + 1).toNat % tickModulus s.cfg = 0 then countDown s.dt else s.dt
      st := if (s.cyc + 1).toNat % tickModulus s.cfg = 0 then countDown s.st else s.st } := by
  by_cases h : (s.cyc + 1).toNat % tickModulus s.cfg = 0
  · simp only [State.tick, if_pos h]
  · simp only [State.tick, if_neg h]

theorem toNat_countDown (t : Byte) : (countDown t).toNat = t.toNat - 1 := by
  unfold countDown
  split
  · rename_i h
    simp [h]
  · rename_i h
    have : t.toNat ≠ 0 := fun e => h (BitVec.eq_of_toNat_eq (by simpa using e))
    bv_omega

/-- Everything a running step changes before its fetch. -/
theorem State.beginStep_eq (s : State) :
    ∃ keys rnd pending draws, s.beginStep = { s with
      cyc := s.cyc + 1
      dt := if (s.cyc + 1).toNat % tickModulus s.cfg = 0 then countDown s.dt else s.dt
      st := if (s.cyc + 1).toNat % tickModulus s.cfg = 0 then countDown s.st else s.st
      screen := s.screen.resetChangedFlag
      rndTake := false
      keys := keys, rnd := rnd, pending := pending, draws := draws } := by
  obtain ⟨keys, rnd, pending, draws, h⟩ := s.sampleInputs_eq
  exact ⟨keys, rnd, pending, draws, by simp only [State.beginStep, h, State.tick_eq, State.clearChanged]⟩

end Sys2Proof.Machine
end

