-- ==== Sys2Proof/Laws/PerInstr.lean ====
section
/-! SUPPORT. Statements made instruction by instruction. TableRow: the word of an instruction selects the row of its
slot in the opcode table (spec/30_encoding.md R100). -/

namespace Sys2Proof.Laws.TableRow

/-- The word of `i` has the fixed bits of its row. -/
def Statement (i : Instr) : Prop := (opcodeRow i.slot).selects (encode i)

theorem selects_wordA (f : Nibble) (nnn : Addr12) : wordA f nnn &&& 0xF000 = f ++ (0 : Addr12) := by
  ext k hk
  simp only [wordA, BitVec.getElem_and, BitVec.getElem_append]
  interval_cases k <;> simp

theorem selects_wordXI_family (f : Nibble) (x : RegId) (nn : Byte) :
    wordXI f x nn &&& 0xF000 = f ++ (0 : Addr12) := by
  ext k hk
  simp only [wordXI, BitVec.getElem_and, BitVec.getElem_append]
  interval_cases k <;> simp

theorem selects_wordXI_low (f : Nibble) (x : RegId) (nn : Byte) :
    wordXI f x nn &&& 0xF0FF = f ++ (0 : Nibble) ++ nn := by
  ext k hk
  simp only [wordXI, BitVec.getElem_and, BitVec.getElem_append]
  interval_cases k <;> simp

theorem selects_wordXYN_family (f : Nibble) (x y : RegId) (n : Nibble) :
    wordXYN f x y n &&& 0xF000 = f ++ (0 : Addr12) := by
  ext k hk
  simp only [wordXYN, BitVec.getElem_and, BitVec.getElem_append]
  interval_cases k <;> simp

theorem selects_wordXYN_low (f : Nibble) (x y : RegId) (n : Nibble) :
    wordXYN f x y n &&& 0xF00F = f ++ (0 : Byte) ++ n := by
  ext k hk
  simp only [wordXYN, BitVec.getElem_and, BitVec.getElem_append]
  interval_cases k <;> simp

theorem clearScreen : Statement .clearScreen := rfl

theorem ret : Statement .ret := rfl

theorem jump (nnn : Addr12) : Statement (.jump nnn) := selects_wordA _ _

theorem call (nnn : Addr12) : Statement (.call nnn) := selects_wordA _ _

theorem skipEqImm (x : RegId) (nn : Byte) : Statement (.skipEqImm x nn) := selects_wordXI_family _ _ _

theorem skipNeImm (x : RegId) (nn : Byte) : Statement (.skipNeImm x nn) := selects_wordXI_family _ _ _

theorem skipEqReg (x y : RegId) (n : Nibble) : Statement (.skipEqReg x y n) := selects_wordXYN_family _ _ _ _

theorem set (x : RegId) (nn : Byte) : Statement (.set x nn) := selects_wordXI_family _ _ _

theorem addConst (x : RegId) (nn : Byte) : Statement (.addConst x nn) := selects_wordXI_family _ _ _

theorem assign (x y : RegId) : Statement (.assign x y) := selects_wordXYN_low _ _ _ _

theorem or (x y : RegId) : Statement (.or x y) := selects_wordXYN_low _ _ _ _

theorem and (x y : RegId) : Statement (.and x y) := selects_wordXYN_low _ _ _ _

theorem xor (x y : RegId) : Statement (.xor x y) := selects_wordXYN_low _ _ _ _

theorem add (x y : RegId) : Statement (.add x y) := selects_wordXYN_low _ _ _ _

theorem sub (x y : RegId) : Statement (.sub x y) := selects_wordXYN_low _ _ _ _

theorem shiftRight (x y : RegId) : Statement (.shiftRight x y) := selects_wordXYN_low _ _ _ _

theorem subN (x y : RegId) : Statement (.subN x y) := selects_wordXYN_low _ _ _ _

theorem shiftLeft (x y : RegId) : Statement (.shiftLeft x y) := selects_wordXYN_low _ _ _ _

theorem skipNeReg (x y : RegId) (n : Nibble) : Statement (.skipNeReg x y n) := selects_wordXYN_family _ _ _ _

theorem setIndex (nnn : Addr12) : Statement (.setIndex nnn) := selects_wordA _ _

theorem jumpOffset (nnn : Addr12) : Statement (.jumpOffset nnn) := selects_wordA _ _

theorem random (x : RegId) (nn : Byte) : Statement (.random x nn) := selects_wordXI_family _ _ _

theorem draw (x y : RegId) (n : Nibble) : Statement (.draw x y n) := selects_wordXYN_family _ _ _ _

theorem skipKey (x : RegId) : Statement (.skipKey x) := selects_wordXI_low _ _ _

theorem skipNotKey (x : RegId) : Statement (.skipNotKey x) := selects_wordXI_low _ _ _

theorem getDelay (x : RegId) : Statement (.getDelay x) := selects_wordXI_low _ _ _

theorem waitKey (x : RegId) : Statement (.waitKey x) := selects_wordXI_low _ _ _

theorem setDelay (x : RegId) : Statement (.setDelay x) := selects_wordXI_low _ _ _

theorem setSound (x : RegId) : Statement (.setSound x) := selects_wordXI_low _ _ _

theorem addIndex (x : RegId) : Statement (.addIndex x) := selects_wordXI_low _ _ _

theorem fontChar (x : RegId) : Statement (.fontChar x) := selects_wordXI_low _ _ _

theorem storeBcd (x : RegId) : Statement (.storeBcd x) := selects_wordXI_low _ _ _

theorem storeRegs (x : RegId) : Statement (.storeRegs x) := selects_wordXI_low _ _ _

theorem loadRegs (x : RegId) : Statement (.loadRegs x) := selects_wordXI_low _ _ _

end Sys2Proof.Laws.TableRow
end

