-- ==== Sys2Proof/Laws/Screen.lean ====
section
/-! SUPPORT. The rows of the framebuffer after a primitive. -/

namespace Sys2Proof.Machine

/-- A row after `putRow`: rows are compared modulo 32 (R200). -/
theorem Screen.rowAt_putRow (scr : Screen) (y z : Nat) (v : RowMask) :
    (scr.putRow y v).rowAt z = if z % 32 = y % 32 then v else scr.rowAt z := by
  simp only [Screen.rowAt, Screen.putRow, Vector.getElem_set]
  by_cases h : z % 32 = y % 32
  · simp [h]
  · have hn : ¬y % 32 = z % 32 := fun e => h e.symm
    simp [h, hn]

@[simp] theorem Screen.changed_putRow (scr : Screen) (y : Nat) (v : RowMask) : (scr.putRow y v).changed = true := rfl

@[simp] theorem Screen.rowAt_resetChangedFlag (scr : Screen) (y : Nat) :
    scr.resetChangedFlag.rowAt y = scr.rowAt y := rfl

@[simp] theorem Screen.changed_resetChangedFlag (scr : Screen) : scr.resetChangedFlag.changed = false := rfl

@[simp] theorem Screen.rowAt_clear (scr : Screen) (y : Nat) : scr.clear.rowAt y = 0 := by
  simp [Screen.rowAt, Screen.clear]

@[simp] theorem Screen.changed_clear (scr : Screen) : scr.clear.changed = true := rfl

@[simp] theorem Screen.fst_flipVectored (scr : Screen) (p : Byte) (x y : Nat) :
    (scr.flipVectored p x y).1 = scr.collides p x y := rfl

@[simp] theorem Screen.snd_flipVectored (scr : Screen) (p : Byte) (x y : Nat) :
    (scr.flipVectored p x y).2 = scr.putRow y (scr.rowAt y ^^^ patternMask p x) := rfl

@[simp] theorem Screen.drawRows_nil (scr : Screen) (x y : Nat) : scr.drawRows x y [] = (false, scr) := rfl

theorem Screen.drawRows_cons (scr : Screen) (x y : Nat) (p : Byte) (ps : List Byte) :
    scr.drawRows x y (p :: ps) =
      (scr.collides p x y || ((scr.flipVectored p x y).2.drawRows x (y + 1) ps).1,
        ((scr.flipVectored p x y).2.drawRows x (y + 1) ps).2) := rfl

/-- Drawing at least one row sets the changed flag; drawing none leaves the screen (R204, R211). -/
theorem Screen.changed_drawRows (scr : Screen) (x y : Nat) (ps : List Byte) :
    (scr.drawRows x y ps).2.changed = (scr.changed || !ps.isEmpty) := by
  induction ps generalizing scr y with
  | nil => simp
  | cons p ps ih => simp [Screen.drawRows_cons, ih]

end Sys2Proof.Machine
end

