-- ==== Sys2Proof/Laws/Step.lean ====
section
/-! SUPPORT. What a step is made of: the faulted case, the phases before the execute phase, the fetch, and the word
that `withFetchWord` places. -/

namespace Sys2Proof.Machine

theorem step_of_fault {s : State} (h : s.status = .fault) : step s = .next s := by
  simp [step, runStep, h]

theorem step_of_run {s : State} (h : s.status = .run) : step s = fetchExecute s.beginStep := by
  simp [step, runStep, h]

@[simp] theorem State.beginStep_pc (s : State) : s.beginStep.pc = s.pc := by
  obtain ⟨_, _, _, _, h⟩ := s.beginStep_eq
  rw [h]

@[simp] theorem State.beginStep_mem (s : State) : s.beginStep.mem = s.mem := by
  obtain ⟨_, _, _, _, h⟩ := s.beginStep_eq
  rw [h]

@[simp] theorem State.beginStep_cfg (s : State) : s.beginStep.cfg = s.cfg := by
  obtain ⟨_, _, _, _, h⟩ := s.beginStep_eq
  rw [h]

@[simp] theorem State.beginStep_x (s : State) : s.beginStep.x = s.x := by
  obtain ⟨_, _, _, _, h⟩ := s.beginStep_eq
  rw [h]

@[simp] theorem State.beginStep_idx (s : State) : s.beginStep.idx = s.idx := by
  obtain ⟨_, _, _, _, h⟩ := s.beginStep_eq
  rw [h]

@[simp] theorem State.beginStep_sp (s : State) : s.beginStep.sp = s.sp := by
  obtain ⟨_, _, _, _, h⟩ := s.beginStep_eq
  rw [h]

@[simp] theorem State.beginStep_stack (s : State) : s.beginStep.stack = s.stack := by
  obtain ⟨_, _, _, _, h⟩ := s.beginStep_eq
  rw [h]

@[simp] theorem State.beginStep_status (s : State) : s.beginStep.status = s.status := by
  obtain ⟨_, _, _, _, h⟩ := s.beginStep_eq
  rw [h]

@[simp] theorem State.beginStep_faultCause (s : State) : s.beginStep.faultCause = s.faultCause := by
  obtain ⟨_, _, _, _, h⟩ := s.beginStep_eq
  rw [h]

@[simp] theorem State.beginStep_faultAddr (s : State) : s.beginStep.faultAddr = s.faultAddr := by
  obtain ⟨_, _, _, _, h⟩ := s.beginStep_eq
  rw [h]

@[simp] theorem State.beginStep_faultWord (s : State) : s.beginStep.faultWord = s.faultWord := by
  obtain ⟨_, _, _, _, h⟩ := s.beginStep_eq
  rw [h]

@[simp] theorem State.beginStep_screen (s : State) : s.beginStep.screen = s.screen.resetChangedFlag := by
  obtain ⟨_, _, _, _, h⟩ := s.beginStep_eq
  rw [h]

@[simp] theorem State.beginStep_rndTake (s : State) : s.beginStep.rndTake = false := by
  obtain ⟨_, _, _, _, h⟩ := s.beginStep_eq
  rw [h]

@[simp] theorem State.beginStep_cyc (s : State) : s.beginStep.cyc = s.cyc + 1 := by
  obtain ⟨_, _, _, _, h⟩ := s.beginStep_eq
  rw [h]

/-- The phases before the fetch do not change what is fetched. -/
@[simp] theorem State.fetch_beginStep (s : State) : s.beginStep.fetch = s.fetch := by
  simp [State.fetch, State.memRead2, State.byteAt]

/-- A fetch answers the word at `pc`, or `pc` is above 4094 (R253). -/
theorem State.fetch_cases (s : State) :
    (s.pc.toNat ≤ 4094 ∧
        s.fetch = some (wordOfBytes (s.byteAt s.pc.toNat) (s.byteAt (s.pc.toNat + 1)))) ∨
      (4095 ≤ s.pc.toNat ∧ s.fetch = none) :=
  s.memRead2_cases s.pc.toNat

/-- A running step in its three cases: it executes an instruction, or latches one of the two faults of the step
itself. -/
theorem step_cases {s : State} (h : s.status = .run) :
    (∃ op i, s.fetch = some op ∧ decode op = .ok i ∧ step s = exec i s.beginStep.advance) ∨
      (∃ op e, s.fetch = some op ∧ decode op = .error e ∧
        step s = .next (s.beginStep.advance.unknownFault op)) ∨
      (s.fetch = none ∧ step s = .next s.beginStep.fetchFault) := by
  rw [step_of_run h]
  unfold fetchExecute
  rw [State.fetch_beginStep]
  cases hf : s.fetch with
  | none => exact Or.inr (Or.inr ⟨rfl, rfl⟩)
  | some op =>
    cases hd : decode op with
    | ok i => exact Or.inl ⟨op, i, rfl, hd, by simp [executeWord, hd]⟩
    | error e => exact Or.inr (Or.inl ⟨op, e, rfl, hd, by simp [executeWord, hd]⟩)

/-! ### The placed word -/

theorem wordOfBytes_split (w : Word) : wordOfBytes (w.extractLsb' 8 8) (w.extractLsb' 0 8) = w := by
  unfold wordOfBytes
  ext k hk
  simp only [BitVec.getElem_append, BitVec.getElem_extractLsb']
  interval_cases k <;> simp

@[simp] theorem State.clearLatch_pc (s : State) : s.clearLatch.pc = s.pc := by
  unfold State.clearLatch
  split <;> rfl

@[simp] theorem State.clearLatch_status (s : State) : s.clearLatch.status = .run := by
  unfold State.clearLatch
  split
  · assumption
  · rfl

theorem State.readyToFetch_pc (s : State) : s.readyToFetch.pc.toNat ≤ 4094 := by
  unfold State.readyToFetch
  split
  · rename_i h
    rw [inRange_iff] at h
    simp only [memorySize] at h
    rw [State.clearLatch_pc]
    omega
  · simp

@[simp] theorem State.readyToFetch_status (s : State) : s.readyToFetch.status = .run := by
  unfold State.readyToFetch
  split <;> simp

@[simp] theorem State.placeWord_status (s : State) (w : Word) : (s.placeWord w).status = .run :=
  s.readyToFetch_status

/-- The next fetch reads the placed word. -/
theorem State.fetch_placeWord (s : State) (w : Word) : (s.placeWord w).fetch = some w := by
  have hp : (s.placeWord w).pc = s.readyToFetch.pc := rfl
  have hb : ∀ a, (s.placeWord w).byteAt a =
      if s.readyToFetch.pc.toNat ≤ a then
        ((bytesOfWord w)[a - s.readyToFetch.pc.toNat]?).getD (s.readyToFetch.byteAt a)
      else s.readyToFetch.byteAt a := fun a =>
    Memory.read_writeList (bytesOfWord w) s.readyToFetch.mem s.readyToFetch.pc.toNat a
  have hpc : (s.placeWord w).pc.toNat ≤ 4094 := hp ▸ s.readyToFetch_pc
  rcases (s.placeWord w).fetch_cases with ⟨-, e⟩ | ⟨h, -⟩
  · rw [e, hb, hb, hp]
    simp [bytesOfWord, wordOfBytes_split]
  · omega

/-- The step after `withFetchWord` runs the instruction of the table word. -/
theorem step_withFetchWord (s : State) (nbits w : Nat) (i : Instr) (h : decode (tableWord nbits w) = .ok i) :
    step (s.withFetchWord nbits w) = exec i (s.withFetchWord nbits w).beginStep.advance := by
  rcases step_cases (s.placeWord_status (tableWord nbits w)) with ⟨op, j, hf, hd, e⟩ | ⟨op, e, hf, hd, -⟩ | ⟨hf, -⟩
  · rw [State.fetch_placeWord] at hf
    cases hf
    rw [h] at hd
    cases hd
    exact e
  · rw [State.fetch_placeWord] at hf
    cases hf
    rw [h] at hd
    cases hd
  · rw [State.fetch_placeWord] at hf
    cases hf

/-! ### Construction -/

/-- Reset with the default configuration and no image is the reset state (R331). -/
theorem State.construct_empty : State.construct Config.default [] = some State.reset := rfl

/-- A constructed memory is canonical. -/
theorem State.wf_construct {cfg : Config} {image : List Byte} {t : State}
    (h : State.construct cfg image = some t) : t.mem.wf t.cfg.font = true := by
  unfold State.construct at h
  split at h
  · rename_i hi
    cases h
    have hl : image.length ≤ 3584 := by simpa [imageFits] using hi
    exact Memory.wf_writeList Memory.wf_nil (Or.inr (by simp only [memorySize]; omega))
  · cases h

end Sys2Proof.Machine
end

