-- ==== Sys2Proof/Machine/Listing.lean ====
section
/-! DEFINITION. The assembler notation of this spec (spec/30_encoding.md R105): the listing of an instruction and the
bytes of assembled items. No step uses it. -/

namespace Sys2Proof.Machine

/-- A hexadecimal digit. -/
def hexDigit (d : Nibble) : String :=
  ["0", "1", "2", "3", "4", "5", "6", "7", "8", "9", "A", "B", "C", "D", "E", "F"].getD d.toNat ""

/-- `V0`..`VF` (R105). -/
def regName (r : RegId) : String := "V" ++ hexDigit r

/-- A number of 8 bits. -/
def hexByte (v : Byte) : String := "0x" ++ hexDigit (v.extractLsb' 4 4) ++ hexDigit (v.extractLsb' 0 4)

/-- A number of 12 bits. -/
def hexAddr (a : Addr12) : String :=
  "0x" ++ hexDigit (a.extractLsb' 8 4) ++ hexDigit (a.extractLsb' 4 4) ++ hexDigit (a.extractLsb' 0 4)

/-- An operation on a register and another operand. -/
def listPair (op first second : String) : String := op ++ " " ++ first ++ ", " ++ second

/-- The syntax line of an instruction (R105). -/
def listing : Instr → String
  | .clearScreen => "CLS"
  | .ret => "RET"
  | .jump nnn => "JP " ++ hexAddr nnn
  | .call nnn => "CALL " ++ hexAddr nnn
  | .skipEqImm x nn => listPair "SE" (regName x) (hexByte nn)
  | .skipNeImm x nn => listPair "SNE" (regName x) (hexByte nn)
  | .skipEqReg x y _ => listPair "SE" (regName x) (regName y)
  | .set x nn => listPair "LD" (regName x) (hexByte nn)
  | .addConst x nn => listPair "ADD" (regName x) (hexByte nn)
  | .assign x y => listPair "LD" (regName x) (regName y)
  | .or x y => listPair "OR" (regName x) (regName y)
  | .and x y => listPair "AND" (regName x) (regName y)
  | .xor x y => listPair "XOR" (regName x) (regName y)
  | .add x y => listPair "ADD" (regName x) (regName y)
  | .sub x y => listPair "SUB" (regName x) (regName y)
  | .shiftRight x y => listPair "SHR" (regName x) (regName y)
  | .subN x y => listPair "SUBN" (regName x) (regName y)
  | .shiftLeft x y => listPair "SHL" (regName x) (regName y)
  | .skipNeReg x y _ => listPair "SNE" (regName x) (regName y)
  | .setIndex nnn => listPair "LD" "I" (hexAddr nnn)
  | .jumpOffset nnn => listPair "JP" "V0" (hexAddr nnn)
  | .random x nn => listPair "RND" (regName x) (hexByte nn)
  | .draw x y n => listPair "DRW" (regName x) (regName y) ++ ", 0x" ++ hexDigit n
  | .skipKey x => "SKP " ++ regName x
  | .skipNotKey x => "SKNP " ++ regName x
  | .getDelay x => listPair "LD" (regName x) "DT"
  | .waitKey x => listPair "LD" (regName x) "K"
  | .setDelay x => listPair "LD" "DT" (regName x)
  | .setSound x => listPair "LD" "ST" (regName x)
  | .addIndex x => listPair "ADD" "I" (regName x)
  | .fontChar x => listPair "LD" "F" (regName x)
  | .storeBcd x => listPair "LD" "B" (regName x)
  | .storeRegs x => listPair "LD" "[I]" (regName x)
  | .loadRegs x => listPair "LD" (regName x) "[I]"

/-- One line of assembly (R105). -/
inductive AsmItem where
  | ins (i : Instr)
  | db (bytes : List Byte)
  | dw (w : Word)
  | label (name : String)
  deriving DecidableEq, Repr

/-- The bytes an item places: an instruction in its canonical form, `DW` big-endian, a label none (R105). -/
def AsmItem.bytes : AsmItem → List Byte
  | .ins i => bytesOfWord (encode i.canonical)
  | .db bytes => bytes
  | .dw w => bytesOfWord w
  | .label _ => []

/-- The image of a list of items. -/
def assemble (items : List AsmItem) : List Byte := items.flatMap AsmItem.bytes

/-- The address a label stands for: that of the next byte placed (R105). -/
def labelAddress (name : String) (here : Nat) : List AsmItem → Option Nat
  | [] => none
  | .label n :: items => if n = name then some here else labelAddress name here items
  | item :: items => labelAddress name (here + item.bytes.length) items

end Sys2Proof.Machine
end

