-- ==== Sys2Proof/Tests/Slice0.lean ====
section
/-! SUPPORT. Tests of the model. Expected values are those of spec/95_test_vectors.md (S, V and P ids, named in each
comment) or follow from the encodings of spec/30_encoding.md; none is the model's own answer. Then, for every
statement with hypotheses, a witness that meets them. -/

namespace Sys2Proof.Tests

open Sys2Proof Sys2Proof.Machine

/-! ### Helpers -/

/-- The state of the single-step vectors: reset, one word at 0x200, the inputs of the coming step. -/
def boot (w : Word) (keys : BitVec 16 := 0) (rnd : Byte := 0) : State :=
  { State.reset.placeWord w with pending := [⟨keys, rnd⟩] }

/-- Bytes placed in memory. -/
def put (s : State) (a : Nat) (bs : List Byte) : State := { s with mem := s.mem.writeList s.cfg.font a bs }

/-- One row of the framebuffer placed. -/
def putRow (s : State) (y : Nat) (v : RowMask) : State :=
  { s with screen := { (s.screen.putRow y v) with changed := false } }

/-- The stack pointer placed. -/
def withSp (s : State) (sp : Fin 17) : State := { s with sp := sp }

/-- FREQ replaced. -/
def withFreq (s : State) (freq : Nat) : State := { s with cfg := { s.cfg with freq := freq } }

/-- The check `p` holds of the next state. -/
def after (p : State → Bool) : Result → Bool
  | .next t => p t
  | .fault _ => false
  | .refused _ => false

/-- The next state has a fault of this cause and word latched, and this `pc`. -/
def latched (c : FaultCause) (addr : Addr) (w : Word) (pc : Addr) (t : State) : Bool :=
  t.status == .fault && t.faultCause == c && t.faultAddr == addr && t.faultWord == w && t.pc == pc

/-! ### Well-formedness: an ill-formed term for each check, refused -/

theorem test_ill_formed_register_number :
    RegId.ofRaw? 16 = none ∧ RegId.ofRaw? 255 = none ∧ RegId.ofRaw? 15 = some 15 := by decide

theorem test_ill_formed_image :
    imageFits (List.replicate 3585 0) = false ∧ imageFits (List.replicate 3584 0) = true := by
  simp only [imageFits, List.length_replicate]
  decide

theorem test_not_canonical :
    (Instr.skipEqReg 1 2 15).isCanonical = false ∧ (Instr.skipNeReg 10 11 1).isCanonical = false ∧
      (Instr.skipEqReg 1 2 0).isCanonical = true := by decide

/-- A cell equal to what an unlisted address reads as, a font byte listed, cells out of order, a cell above 4095. -/
theorem test_ill_formed_memory :
    Memory.wf Config.defaultFont [(0x300, 0)] = false ∧ Memory.wf Config.defaultFont [(0x50, 0xF0)] = false ∧
      Memory.wf Config.defaultFont [(0x301, 1), (0x300, 1)] = false ∧ Memory.wf Config.defaultFont [(4096, 1)] = false ∧
      Memory.wf Config.defaultFont [(0x300, 1), (0x301, 1)] = true := by decide

/-! ### Decoding: every constructor from a word written out from the formats of 30_encoding.md (S1) -/

theorem test_decode_control :
    decode 0x1ABC = .ok (.jump 0xABC) ∧
    decode 0x2ABC = .ok (.call 0xABC) ∧
    decode 0xB300 = .ok (.jumpOffset 0x300) ∧
    decode 0x00EE = .ok (.ret) ∧
    decode 0x10E0 = .ok (.jump 0x0E0) := by decide

theorem test_decode_skips :
    decode 0x3A05 = .ok (.skipEqImm 10 5) ∧
    decode 0x4A05 = .ok (.skipNeImm 10 5) ∧
    decode 0x5120 = .ok (.skipEqReg 1 2 0) ∧
    decode 0x512F = .ok (.skipEqReg 1 2 15) ∧
    decode 0x9ABF = .ok (.skipNeReg 10 11 15) := by decide

theorem test_decode_assignments :
    decode 0x6A05 = .ok (.set 10 5) ∧
    decode 0x7A05 = .ok (.addConst 10 5) ∧
    decode 0x8120 = .ok (.assign 1 2) := by decide

theorem test_decode_arithmetic :
    decode 0x8121 = .ok (.or 1 2) ∧
    decode 0x8122 = .ok (.and 1 2) ∧
    decode 0x8123 = .ok (.xor 1 2) ∧
    decode 0x8124 = .ok (.add 1 2) ∧
    decode 0x8125 = .ok (.sub 1 2) ∧
    decode 0x8126 = .ok (.shiftRight 1 2) ∧
    decode 0x8127 = .ok (.subN 1 2) ∧
    decode 0x812E = .ok (.shiftLeft 1 2) := by decide

theorem test_decode_index_and_memory :
    decode 0xA2F0 = .ok (.setIndex 0x2F0) ∧
    decode 0xF11E = .ok (.addIndex 1) ∧
    decode 0xF129 = .ok (.fontChar 1) ∧
    decode 0xF133 = .ok (.storeBcd 1) ∧
    decode 0xF155 = .ok (.storeRegs 1) ∧
    decode 0xF165 = .ok (.loadRegs 1) := by decide

theorem test_decode_display :
    decode 0x00E0 = .ok (.clearScreen) ∧
    decode 0xD005 = .ok (.draw 0 0 5) ∧
    decode 0xD123 = .ok (.draw 1 2 3) := by decide

theorem test_decode_timers_random_keys :
    decode 0xC10F = .ok (.random 1 0x0F) ∧
    decode 0xE19E = .ok (.skipKey 1) ∧
    decode 0xE1A1 = .ok (.skipNotKey 1) ∧
    decode 0xF107 = .ok (.getDelay 1) ∧
    decode 0xF10A = .ok (.waitKey 1) ∧
    decode 0xF115 = .ok (.setDelay 1) ∧
    decode 0xF118 = .ok (.setSound 1) := by decide

/-- The unknown words of S1. -/
theorem test_decode_unknown_words :
    decode 0x00E1 = .error .unknownFamily0 ∧ decode 0x0000 = .error .unknownFamily0 ∧ decode 0x00FF = .error .unknownFamily0 ∧ decode 0x0200 = .error .unknownFamily0 ∧
    decode 0x8128 = .error .unknownFamily8 ∧ decode 0x812F = .error .unknownFamily8 ∧ decode 0x8008 = .error .unknownFamily8 ∧ decode 0x812D = .error .unknownFamily8 ∧
    decode 0xE19F = .error .unknownFamilyE ∧ decode 0xE000 = .error .unknownFamilyE ∧ decode 0xE1A0 = .error .unknownFamilyE ∧ decode 0xEF9D = .error .unknownFamilyE ∧
    decode 0xF100 = .error .unknownFamilyF ∧ decode 0xF1FF = .error .unknownFamilyF ∧ decode 0xF166 = .error .unknownFamilyF ∧ decode 0xF154 = .error .unknownFamilyF ∧ decode 0xFFFF = .error .unknownFamilyF ∧ decode 0xF31F = .error .unknownFamilyF ∧ decode 0xF30B = .error .unknownFamilyF := by decide

/-- V119, and the table word interface. -/
theorem test_decode_bytes_big_endian :
    decodeBytes [0x6A, 0x05, 0x12] = .ok (.set 10 5, [0x12]) ∧ decodeBytes [0x6A] = .error .truncated ∧
    decodeTableWord 16 0x6A05 = some (.set 10 5) ∧ decodeTableWord 16 0x8128 = none := by decide

theorem test_encode_words :
    encode (.draw 1 2 3) = 0xD123 ∧ encode (.shiftLeft 1 2) = 0x812E ∧ encode (.setIndex 0x2F0) = 0xA2F0 ∧
    encode (.skipEqReg 1 2 15) = 0x512F ∧ encode (Instr.skipEqReg 1 2 15).canonical = 0x5120 := by decide

theorem test_opcode_rows :
    opcodeTable.length = 34 ∧ (Instr.shiftLeft 1 2).mnemonic = "ShiftLeft" ∧ (Instr.loadRegs 3).mnemonic = "LoadRegs" ∧
    Instr.ret.mnemonic = "Return" := by decide

/-- P3. -/
theorem test_listing :
    listing (.draw 0 0 5) = "DRW V0, V0, 0x5" ∧ listing (.loadRegs 2) = "LD V2, [I]" ∧
    assemble [.ins (.setIndex 0x2F0), .ins (.draw 0 0 5), .db [0xF0]] = [0xA2, 0xF0, 0xD0, 0x05, 0xF0] := by decide

/-! ### Control flow (V1 to V24) -/

/-- V2. -/
theorem test_jump_odd_target :
    after (fun t => t.pc == 0x301 && t.status == .run)
      (step (boot 0x1301)) = true := by
  decide

/-- V6. -/
theorem test_jump_offset_unmasked :
    after (fun t => t.pc == 0x10FE && t.status == .run)
      (step ((boot 0xBFFF).setReg 0 0xFF)) = true := by
  decide

/-- V8. -/
theorem test_call_last_slot :
    after (fun t => t.pc == 0x300 && t.sp == 16 && t.stack[15] == 0x202 && t.status == .run)
      (step (withSp (boot 0x2300) 15)) = true := by
  decide

/-- V9. -/
theorem test_call_exhausted :
    after (fun t => latched .stackExhaustion 0x200 0x2300 0x202 t && t.sp == 16)
      (step (withSp (boot 0x2300) 16)) = true := by
  decide

/-- V10. -/
theorem test_return_pops :
    after (fun t => t.pc == 0x206 && t.sp == 0 && t.stack[0] == 0x206)
      (step ({ withSp (boot 0x00EE) 1 with stack := (boot 0x00EE).stack.set 0 0x206 })) = true := by
  decide

/-- V11. -/
theorem test_return_underflow :
    after (fun t => latched .stackUnderflow 0x200 0x00EE 0x202 t && t.sp == 0)
      (step (boot 0x00EE)) = true := by
  decide

/-- V12. -/
theorem test_skip_eq_imm_taken :
    after (fun t => t.pc == 0x204)
      (step ((boot 0x3A05).setReg 10 5)) = true := by
  decide

/-- V13. -/
theorem test_skip_eq_imm_not_taken :
    after (fun t => t.pc == 0x202)
      (step ((boot 0x3A05).setReg 10 6)) = true := by
  decide

/-- V15. -/
theorem test_skip_ne_imm_taken :
    after (fun t => t.pc == 0x204)
      (step ((boot 0x4A05).setReg 10 6)) = true := by
  decide

/-- V16. -/
theorem test_skip_ne_imm_not_taken :
    after (fun t => t.pc == 0x202)
      (step ((boot 0x4A05).setReg 10 5)) = true := by
  decide

/-- V18. -/
theorem test_skip_eq_reg_low_nibble_ignored :
    after (fun t => t.pc == 0x204)
      (step (((boot 0x512F).setReg 1 7).setReg 2 7)) = true := by
  decide

/-- V19. -/
theorem test_skip_eq_reg_not_taken :
    after (fun t => t.pc == 0x202)
      (step (((boot 0x5120).setReg 1 7).setReg 2 8)) = true := by
  decide

/-- V22. -/
theorem test_skip_ne_reg_taken :
    after (fun t => t.pc == 0x204)
      (step (((boot 0x9AB7).setReg 10 1).setReg 11 2)) = true := by
  decide

/-- V23. -/
theorem test_skip_ne_reg_same :
    after (fun t => t.pc == 0x202)
      (step ((boot 0x9110).setReg 1 3)) = true := by
  decide

/-! ### Register assignment (V25 to V29b) -/

/-- V26. -/
theorem test_set_flag_register :
    after (fun t => t.reg 15 == 0xFF && t.pc == 0x202)
      (step (boot 0x6FFF)) = true := by
  decide

/-- V27. -/
theorem test_assign :
    after (fun t => t.reg 1 == 7 && t.reg 2 == 7)
      (step (((boot 0x8120).setReg 1 1).setReg 2 7)) = true := by
  decide

/-- V28. -/
theorem test_add_const_wraps :
    after (fun t => t.reg 1 == 3 && t.reg 15 == 0xAA)
      (step (((boot 0x7105).setReg 1 0xFE).setReg 15 0xAA)) = true := by
  decide

/-! ### Bitwise and arithmetic (V30 to V57) -/

/-- V54. -/
theorem test_or :
    after (fun t => t.reg 1 == 0xFF && t.reg 15 == 0x55)
      (step ((((boot 0x8121).setReg 1 0xF0).setReg 2 0x0F).setReg 15 0x55)) = true := by
  decide

/-- V55. -/
theorem test_and :
    after (fun t => t.reg 1 == 0x33)
      (step (((boot 0x8122).setReg 1 0xF3).setReg 2 0x3F)) = true := by
  decide

/-- V56. -/
theorem test_xor :
    after (fun t => t.reg 1 == 0xF0)
      (step (((boot 0x8123).setReg 1 0xFF).setReg 2 0x0F)) = true := by
  decide

/-- V32. -/
theorem test_add_carry :
    after (fun t => t.reg 1 == 0 && t.reg 15 == 1)
      (step (((boot 0x8124).setReg 1 0x80).setReg 2 0x80)) = true := by
  decide

/-- V34a. -/
theorem test_add_into_flag_register :
    after (fun t => t.reg 15 == 0)
      (step (((boot 0x8F14).setReg 15 0x10).setReg 1 0x20)) = true := by
  decide

/-- V36. -/
theorem test_sub_borrow :
    after (fun t => t.reg 1 == 0xF0 && t.reg 15 == 0)
      (step (((boot 0x8125).setReg 1 0x10).setReg 2 0x20)) = true := by
  decide

/-- V37. -/
theorem test_sub_equal :
    after (fun t => t.reg 1 == 0 && t.reg 15 == 1)
      (step (((boot 0x8125).setReg 1 0x20).setReg 2 0x20)) = true := by
  decide

/-- V41. -/
theorem test_sub_n :
    after (fun t => t.reg 1 == 0x10 && t.reg 15 == 1)
      (step (((boot 0x8127).setReg 1 0x10).setReg 2 0x20)) = true := by
  decide

/-- V42. -/
theorem test_sub_n_borrow :
    after (fun t => t.reg 1 == 0xF0 && t.reg 15 == 0)
      (step (((boot 0x8127).setReg 1 0x20).setReg 2 0x10)) = true := by
  decide

/-- V44. -/
theorem test_shift_right_standard :
    after (fun t => t.reg 1 == 2 && t.reg 15 == 1)
      (step (((boot 0x8126).setReg 1 0x05).setReg 2 0x82)) = true := by
  decide

/-- V45. -/
theorem test_shift_right_legacy :
    after (fun t => t.reg 1 == 0x41 && t.reg 15 == 0 && t.reg 2 == 0x82)
      (step ((((boot 0x8126).setReg 1 0x05).setReg 2 0x82).withQuirk .legacy)) = true := by
  decide

/-- V46. -/
theorem test_shift_left_standard :
    after (fun t => t.reg 1 == 0x0A && t.reg 15 == 0)
      (step (((boot 0x812E).setReg 1 0x05).setReg 2 0x82)) = true := by
  decide

/-- V47. -/
theorem test_shift_left_legacy :
    after (fun t => t.reg 1 == 0x04 && t.reg 15 == 1)
      (step ((((boot 0x812E).setReg 1 0x05).setReg 2 0x82).withQuirk .legacy)) = true := by
  decide

/-! ### Index register and memory (V58 to V78) -/

/-- V59. -/
theorem test_set_index :
    after (fun t => t.idx == 0xFFF)
      (step (boot 0xAFFF)) = true := by
  decide

/-- V61. -/
theorem test_add_index_to_the_top :
    after (fun t => t.idx == 0xFFFF && t.status == .run)
      (step (((boot 0xF11E).setIndex 0xFF01).setReg 1 0xFE)) = true := by
  decide

/-- V62. -/
theorem test_add_index_past_the_top :
    after (fun t => latched .memoryRangeViolation 0x200 0xF11E 0x202 t && t.idx == 0xFFFF)
      (step (((boot 0xF11E).setIndex 0xFFFF).setReg 1 1)) = true := by
  decide

/-- V65. -/
theorem test_font_char_high_nibble_ignored :
    after (fun t => t.idx == 0x82)
      (step ((boot 0xF129).setReg 1 0x1A)) = true := by
  decide

/-- V68. -/
theorem test_store_bcd_at_the_top :
    after (fun t => t.byteAt 0xFFD == 2 && t.byteAt 0xFFE == 5 && t.byteAt 0xFFF == 5 && t.idx == 0xFFD)
      (step (((boot 0xF333).setIndex 0xFFD).setReg 3 0xFF)) = true := by
  decide

/-- V69. -/
theorem test_store_bcd_past_the_top :
    after (fun t => latched .memoryRangeViolation 0x200 0xF333 0x202 t && t.byteAt 0xFFE == 0 && t.byteAt 0xFFF == 0)
      (step (((boot 0xF333).setIndex 0xFFE).setReg 3 0xFF)) = true := by
  decide

/-- V71. -/
theorem test_store_regs :
    after (fun t => t.byteAt 0x400 == 0x11 && t.byteAt 0x401 == 0x22 && t.byteAt 0x402 == 0x33 && t.byteAt 0x403 == 0 && t.idx == 0x400)
      (step ((((((boot 0xF255).setIndex 0x400).setReg 0 0x11).setReg 1 0x22).setReg 2 0x33).setReg 3 0x44)) = true := by
  decide

/-- V73. -/
theorem test_store_regs_past_the_top :
    after (fun t => latched .memoryRangeViolation 0x200 0xFF55 0x202 t && t.byteAt 0xFF1 == 0)
      (step (((boot 0xFF55).setIndex 0xFF1).setReg 0 0xA0)) = true := by
  decide

/-- V77. -/
theorem test_load_regs_from_font :
    after (fun t => t.reg 0 == 0xF0 && t.reg 5 == 0x20 && t.reg 9 == 0x70 && t.reg 14 == 0xF0 && t.reg 15 == 0xF0 && t.idx == 0x50)
      (step ((boot 0xFF65).setIndex 0x50)) = true := by
  decide

/-- V76. -/
theorem test_load_regs_past_the_top :
    after (fun t => latched .memoryRangeViolation 0x200 0xF165 0x202 t && t.reg 0 == 9 && t.reg 1 == 8)
      (step ((((boot 0xF165).setIndex 0xFFF).setReg 0 9).setReg 1 8)) = true := by
  decide

/-! ### Display (section 2.5) -/

/-- S7. -/
theorem test_clear_screen :
    after (fun t => t.screen.rowAt 3 == 0 && t.screen.rowAt 31 == 0 && t.changedPort)
      (step (putRow (putRow (boot 0x00E0) 3 0xF000000000000000) 31 1)) = true := by
  decide

/-- V80. -/
theorem test_draw_truncates_and_wraps :
    after (fun t => t.screen.rowAt 30 == 0xF && t.screen.rowAt 31 == 0xF && t.screen.rowAt 0 == 0xF && t.screen.rowAt 1 == 0xF &&
        t.screen.rowAt 2 == 0 && t.reg 15 == 0 && t.changedPort)
      (step (put ((((boot 0xD014).setReg 0 60).setReg 1 30).setIndex 0x300) 0x300 [0xFF, 0xFF, 0xFF, 0xFF])) = true := by
  decide

/-- V86. -/
theorem test_draw_collides :
    after (fun t => t.screen.rowAt 0 == 2 && t.reg 15 == 1)
      (step (putRow (put (((boot 0xD011).setReg 0 62).setIndex 0x300) 0x300 [0xFF]) 0 1)) = true := by
  decide

/-- The mask table of rule R201. -/
theorem test_pattern_masks :
    patternMask 0xFF 0 = 0xFF00000000000000 ∧ patternMask 0xFF 4 = 0x0FF0000000000000 ∧
    patternMask 0xFF 60 = 0x000000000000000F ∧ patternMask 0x81 63 = 1 ∧ patternMask 0x01 57 = 0 ∧
    patternMask 0x0F 60 = 0 ∧ patternMask 0x80 5 = 0x0400000000000000 := by decide

/-- The clear screen the primitive vectors start from. -/
def blank : Screen := State.reset.screen

/-- `setVectored(0xFF, 60, 0)` and `unsetVectored(0x80, 60, 0)` after it. -/
def lastColumns : Screen := (blank.setVectored 0xFF 60 0).unsetVectored 0x80 60 0

/-- The primitives no instruction reaches. -/
theorem test_pixel_primitives :
    (blank.setPixel 64 32).rowAt 0 = 0x8000000000000000 ∧ (blank.setPixel 64 32).changed = true ∧
    (blank.setPixel 63 31).rowAt 31 = 1 ∧ ((blank.flipPixel 1 0).flipPixel 1 0).rowAt 0 = 0 ∧
    ((blank.setPixel 63 31).unsetPixel 127 63).rowAt 31 = 0 := by decide

/-- The vectored primitives. -/
theorem test_vectored_primitives :
    (blank.setVectored 0xFF 60 0).rowAt 0 = 0xF ∧ lastColumns.rowAt 0 = 7 ∧ lastColumns.getVectored 60 0 = 0x70 ∧
    lastColumns.getPixel 61 0 = true ∧ ((blank.putRow 0 0x1000000000000000).flipVectored 0xF0 0 0).1 = true ∧
    ((blank.putRow 0 0x1000000000000000).flipVectored 0xF0 0 0).2.rowAt 0 = 0xE000000000000000 := by decide

/-! ### Random, timers, keys (V92 to V110) -/

/-- V92. -/
theorem test_random_masks :
    after (fun t => t.reg 1 == 7 && t.rndTakePort)
      (step (boot 0xC10F 0 0xA7)) = true := by
  decide

/-- V95. -/
theorem test_no_strobe_without_random :
    after (fun t => t.reg 10 == 5 && !t.rndTakePort)
      (step (boot 0x6A05 0 0xA7)) = true := by
  decide

/-- V96. -/
theorem test_get_delay_after_the_tick :
    after (fun t => t.reg 1 == 8 && t.dt == 8)
      (step ((boot 0xF107).setDelay 9)) = true := by
  decide

/-- V97. -/
theorem test_get_delay_without_a_tick :
    after (fun t => t.reg 1 == 9 && t.dt == 9)
      (step (withFreq ((boot 0xF107).setDelay 9) 120)) = true := by
  decide

/-- V99. -/
theorem test_set_delay :
    after (fun t => t.dt == 10)
      (step ((boot 0xF015).setReg 0 10)) = true := by
  decide

/-- V100. -/
theorem test_set_sound_beeps :
    after (fun t => t.st == 3 && t.beep)
      (step ((boot 0xF018).setReg 0 3)) = true := by
  decide

/-- V101. -/
theorem test_set_sound_silent :
    after (fun t => t.st == 0 && !t.beep)
      (step (((boot 0xF018).setReg 0 0).setSound 5)) = true := by
  decide

/-- V104. -/
theorem test_skip_key_low_nibble :
    after (fun t => t.pc == 0x204)
      (step ((boot 0xE19E 0x0020).setReg 1 0xF5)) = true := by
  decide

/-- V103. -/
theorem test_skip_key_up :
    after (fun t => t.pc == 0x202)
      (step ((boot 0xE19E 0xFFDF).setReg 1 5)) = true := by
  decide

/-- V105. -/
theorem test_skip_not_key_down :
    after (fun t => t.pc == 0x202)
      (step ((boot 0xE1A1 0x0020).setReg 1 5)) = true := by
  decide

/-- V106. -/
theorem test_skip_not_key_up :
    after (fun t => t.pc == 0x204)
      (step ((boot 0xE1A1).setReg 1 5)) = true := by
  decide

/-- V107. -/
theorem test_wait_key_repeats :
    after (fun t => t.pc == 0x200 && t.reg 3 == 9 && t.cyc == 1)
      (step ((boot 0xF30A).setReg 3 9)) = true := by
  decide

/-- V108. -/
theorem test_wait_key_takes_lowest :
    after (fun t => t.pc == 0x202 && t.reg 3 == 4)
      (step ((boot 0xF30A 0x0110).setReg 3 9)) = true := by
  decide

/-! ### The step and faults (V111 to V118) -/

/-- V111. -/
theorem test_empty_image_faults :
    after (fun t => latched .unknownInstruction 0x200 0 0x202 t && t.cyc == 1 && !t.changedPort)
      (step (State.reset)) = true := by
  decide

/-- V114. -/
theorem test_last_fetch_address :
    after (latched .unknownInstruction 0xFFE 0 0x1000)
      (step (State.reset.setPc 0xFFE)) = true := by
  decide

/-- V115. -/
theorem test_fetch_past_the_top :
    after (fun t => latched .memoryRangeViolation 0xFFF 0 0xFFF t && t.cyc == 1)
      (step (State.reset.setPc 0xFFF)) = true := by
  decide

/-- V116. -/
theorem test_odd_fetch :
    after (fun t => t.pc == 0xFFF && t.changedPort)
      (step (put (State.reset.setPc 0xFFD) 0xFFD [0x00, 0xE0])) = true := by
  decide

/-- V117. -/
theorem test_tick_kept_on_fault :
    after (fun t => latched .unknownInstruction 0x200 0 0x202 t && t.dt == 0 && t.st == 0 && t.cyc == 1)
      (step ((State.reset.setDelay 1).setSound 1)) = true := by
  decide

/-- V118. -/
theorem test_changed_cleared_by_next_step :
    after (fun t => !t.changedPort && t.reg 10 == 5)
      (step ((boot 0x6A05).setScreen blank.clear)) = true := by
  decide

/-- The timer schedule table of section 2.7. -/
theorem test_tick_moduli :
    tickModulus { Config.default with freq := 0 } = 1 ∧ tickModulus { Config.default with freq := 119 } = 1 ∧
    tickModulus { Config.default with freq := 120 } = 2 ∧ tickModulus { Config.default with freq := 500 } = 8 ∧
    tickModulus { Config.default with freq := 1000 } = 16 := by decide

/-- The codes of 60_exceptions.md section 1. -/
theorem test_fault_port_codes :
    (State.reset.raise .memoryRangeViolation 0xFFF 0x6A05).faultPort = (1, 4, 0xFFF, 0x6A05) ∧
    State.reset.faultPort = (0, 0, 0, 0) := by decide

/-- The word placed for the next fetch is the one that runs. -/
theorem test_with_fetch_word_runs_next :
    after (fun t => t.reg 10 == 5 && t.pc == 0x202)
      (step (State.reset.withFetchWord 16 0x6A05)) = true := by
  decide

/-! ### Witnesses: for every statement with hypotheses, and for every clause of it, a state and operands that meet them,
at the ends of their ranges where there are any. -/

/-- A running step that answers a next state which is still running. -/
def completes (s : State) : Bool := s.status == .run && after (fun t => t.status == .run) (step s)

/-- A running step of this instruction that completes. -/
def runs (i : Instr) (s : State) : Bool := s.nextInstr == some i && completes s

/-- A running step of this instruction that latches this fault. -/
def faults (i : Instr) (c : FaultCause) (s : State) : Bool :=
  s.status == .run && s.nextInstr == some i && after (fun t => t.status == .fault && t.faultCause == c) (step s)

/-- A state with a fault latched. -/
def faulted : State := State.reset.raise .memoryRangeViolation 0x10FE 0

/-- A state at the bounds of the invariant. -/
def atBounds : State := { State.reset.setPc 0x10FE with stack := Vector.replicate 16 4096, sp := 16 }

theorem test_witness_EncodeInvertsDecode : decode 0x512F = .ok (.skipEqReg 1 2 15) := by decide

theorem test_witness_DecoderAgreesWithOpcodeTable :
    (opcodeRow 17).selects 0x812E ∧ (opcodeRow 0).selects 0x00E0 ∧ (opcodeRow 33).selects 0xFF65 ∧
      ∀ k : Fin 34, ¬ (opcodeRow k).selects 0x8128 := by
  unfold OpcodeRow.selects
  decide

theorem test_witness_EveryStepKeepsTheInvariant :
    (boot 0x6A05).Inv ∧ atBounds.Inv ∧ faulted.Inv ∧ (∃ t, step (boot 0x6A05) = .next t) ∧
      (∃ t, step atBounds = .next t) ∧ ∃ t, step faulted = .next t := by
  refine ⟨⟨by decide, by decide, by decide, ?_⟩, ⟨by decide, by decide, by decide, ?_⟩,
    ⟨by decide, by decide, by decide, ?_⟩, ⟨_, rfl⟩, ⟨_, rfl⟩, ⟨_, rfl⟩⟩
  · exact ⟨rfl, rfl, rfl⟩
  · exact ⟨rfl, rfl, rfl⟩
  · exact ⟨by decide, by decide, rfl⟩

theorem test_witness_ConstructionGivesTheResetState :
    3584 < (List.replicate 3585 (0 : Byte)).length ∧ (List.replicate 3584 (0 : Byte)).length ≤ 3584 ∧
      ([] : List Byte).length ≤ 3584 := by
  simp only [List.length_replicate]
  decide

theorem test_witness_CanonicalMemoriesAreDeterminedByTheirReads :
    Memory.wf Config.defaultFont [(0x50, 1), (4095, 2)] = true ∧
      Memory.wf Config.defaultFont (Memory.write Config.defaultFont [(4095, 2)] 0x50 1) = true ∧
      ∀ a, Memory.read Config.defaultFont [(0x50, 1), (4095, 2)] a =
        Memory.read Config.defaultFont (Memory.write Config.defaultFont [(4095, 2)] 0x50 1) a :=
  ⟨by decide, by decide, fun _ => rfl⟩

/-- At the last fetch address: 0xFFE, by a Set there. -/
def lastWord : State := put (State.reset.setPc 0xFFE) 0xFFE [0x6A, 0x05]

theorem test_witness_StepRunsTheDecodedInstruction :
    lastWord.Running ∧ lastWord.pc.toNat = 4094 ∧
      decode (lastWord.byteAt lastWord.pc.toNat ++ lastWord.byteAt (lastWord.pc.toNat + 1)) = .ok (.set 10 5) := by
  decide

/-- All four cases of the phases: a tick, none, an input listed, none listed. -/
theorem test_witness_PhasesBeforeTheFetch :
    State.reset.beginStep.cyc.toNat % max (State.reset.cfg.freq / 60) 1 = 0 ∧
      (withFreq State.reset 120).beginStep.cyc.toNat % max ((withFreq State.reset 120).cfg.freq / 60) 1 ≠ 0 ∧
      (boot 0x6A05 3 4).pending = [⟨3, 4⟩] ∧ State.reset.pending = [] := by
  decide

theorem test_witness_EveryRunningStepCounts :
    (boot 0x6A05).Running ∧ (∃ t, step (boot 0x6A05) = .next t) ∧ State.reset.Running ∧
      ∃ t, step State.reset = .next t :=
  ⟨rfl, ⟨_, rfl⟩, rfl, ⟨_, rfl⟩⟩

/-- A step of another instruction, and one of each setter. -/
theorem test_witness_TimersFollowTheSchedule :
    runs (.jump 0x200) (boot 0x1200) = true ∧ runs (.setDelay 15) (boot 0xFF15) = true ∧
      runs (.setSound 0) (boot 0xF018) = true := by
  decide

theorem test_witness_FetchIsBigEndianAndRangeChecked :
    lastWord.Running ∧ lastWord.pc.toNat ≤ 4094 ∧ (State.reset.setPc 0xFFF).Running ∧
      4095 ≤ (State.reset.setPc 0xFFF).pc.toNat := by
  decide

theorem test_witness_UnknownWordLatchesAFault :
    (boot 0x8128).Running ∧ (boot 0x8128).fetch = some 0x8128 ∧ decode 0x8128 = .error .unknownFamily8 := by
  decide

theorem test_witness_EveryStepAnswersOkOrAFault : State.reset.Inv ∧ faulted.Inv :=
  ⟨⟨by decide, by decide, by decide, rfl, rfl, rfl⟩, test_witness_EveryStepKeepsTheInvariant.2.2.1⟩

theorem test_witness_FaultedMachineNeverChanges : faulted.status = .fault := by decide

/-- A fetch fault, a rejected word, an instruction's fault. -/
theorem test_witness_FaultEntryLatchesTheInstruction :
    (State.reset.setPc 0xFFF).Running ∧ after (·.status == .fault) (step (State.reset.setPc 0xFFF)) = true ∧
      State.reset.Running ∧ after (·.status == .fault) (step State.reset) = true ∧
      faults .ret .stackUnderflow (boot 0x00EE) = true := by
  decide

/-- Each site at its first value outside, and the last value inside. -/
theorem test_witness_FaultSitesAreComplete :
    faults (.call 0x300) .stackExhaustion (withSp (boot 0x2300) 16) = true ∧
      runs (.call 0x300) (withSp (boot 0x2300) 15) = true ∧
      faults .ret .stackUnderflow (withSp (boot 0x00EE) 0) = true ∧ runs .ret (withSp (boot 0x00EE) 1) = true ∧
      faults (.addIndex 1) .memoryRangeViolation (((boot 0xF11E).setIndex 0xFFFF).setReg 1 1) = true ∧
      runs (.addIndex 1) (((boot 0xF11E).setIndex 0xFFFE).setReg 1 1) = true ∧
      faults (.storeBcd 1) .memoryRangeViolation ((boot 0xF133).setIndex 0xFFE) = true ∧
      runs (.storeBcd 1) ((boot 0xF133).setIndex 0xFFD) = true := by
  decide

theorem test_witness_FaultSitesAreComplete_ranges :
    faults (.storeRegs 15) .memoryRangeViolation ((boot 0xFF55).setIndex 0xFF1) = true ∧
      runs (.storeRegs 15) ((boot 0xFF55).setIndex 0xFF0) = true ∧
      faults (.loadRegs 0) .memoryRangeViolation ((boot 0xF065).setIndex 0x1000) = true ∧
      runs (.loadRegs 0) ((boot 0xF065).setIndex 0xFFF) = true ∧
      faults (.draw 0 1 3) .memoryRangeViolation ((boot 0xD013).setIndex 0xFFE) = true ∧
      runs (.draw 0 1 3) ((boot 0xD013).setIndex 0xFFD) = true ∧
      runs (.draw 0 1 0) ((boot 0xD010).setIndex 0xFFFF) = true := by
  decide

theorem test_witness_PcAfterEachInstruction :
    runs (.jump 0x234) (boot 0x1234) = true ∧ runs (.call 0x300) (boot 0x2300) = true ∧
      runs (.jumpOffset 0xFFF) ((boot 0xBFFF).setReg 0 0xFF) = true ∧
      runs .ret (withSp (boot 0x00EE) 16) = true ∧ runs (.skipEqImm 10 0) (boot 0x3A00) = true ∧
      runs (.skipNeImm 10 0) (boot 0x4A00) = true ∧ runs (.skipEqReg 1 2 15) (boot 0x512F) = true ∧
      runs (.skipNeReg 1 2 0) (boot 0x9120) = true ∧ runs (.skipKey 1) (boot 0xE19E 1) = true ∧
      runs (.skipNotKey 1) (boot 0xE1A1 1) = true ∧ runs (.waitKey 3) (boot 0xF30A) = true ∧
      runs (.waitKey 3) (boot 0xF30A 0x8000) = true ∧ runs (.set 10 5) lastWord = true := by
  decide

/-- Both sides of the equivalence. -/
theorem test_witness_ChangedDescribesTheLastStep :
    runs .clearScreen (boot 0x00E0) = true ∧ runs (.draw 0 1 1) (boot 0xD011) = true ∧
      runs (.draw 0 1 0) (boot 0xD010) = true ∧ runs (.set 10 5) (boot 0x6A05) = true := by
  decide

theorem test_witness_RandomStrobeMarksRandomOnly :
    runs (.random 1 0x0F) (boot 0xC10F) = true ∧ runs (.set 10 5) (boot 0x6A05) = true := by
  decide

theorem test_witness_StalePortValuesAreNeverRead : (boot 0xC10F 0 0xA7).Running := by decide

/-- At 0x200 and at the last fetch address. -/
theorem test_witness_EndOfProgramIsALoop :
    (boot 0x1200).Running ∧ (boot 0x1200).AtEnd ∧ (put (State.reset.setPc 0xFFE) 0xFFE [0x1F, 0xFE]).AtEnd := by
  unfold State.AtEnd
  decide

/-- A Jump meets the condition of every clause; the setters and writers meet the hypothesis of the frame. -/
theorem test_witness_InstructionsChangeOnlyTheirState :
    (∃ t, exec (.jump 0x234) (boot 0x1234) = .next t) ∧ Instr.writesReg 3 (.jump 0x234) = false ∧
      (∃ t, exec (.loadRegs 2) (boot 0xF265) = .next t) ∧ Instr.writesReg 3 (.loadRegs 2) = false ∧
      (∃ t, exec (.add 1 2) (boot 0x8124) = .next t) ∧ Instr.writesReg 3 (.add 1 2) = false :=
  ⟨⟨_, rfl⟩, rfl, ⟨_, rfl⟩, rfl, ⟨_, rfl⟩, rfl⟩

theorem test_witness_InstructionsChangeOnlyTheirState_clauses :
    (∀ x : RegId, Instr.jump 0x234 ≠ .storeBcd x ∧ Instr.jump 0x234 ≠ .storeRegs x ∧ Instr.jump 0x234 ≠ .addIndex x ∧
        Instr.jump 0x234 ≠ .fontChar x ∧ Instr.jump 0x234 ≠ .setDelay x ∧ Instr.jump 0x234 ≠ .setSound x) ∧
      (∀ nnn : Addr12, Instr.jump 0x234 ≠ .setIndex nnn ∧ Instr.jump 0x234 ≠ .call nnn) ∧
      Instr.jump 0x234 ≠ .ret ∧ Instr.jump 0x234 ≠ .clearScreen ∧
      (∀ x y n, Instr.jump 0x234 ≠ .draw x y n) ∧ ∀ x nn, Instr.jump 0x234 ≠ .random x nn := by
  simp

/-- The two store clauses, at both ends of their bytes, and the latch clause. -/
theorem test_witness_InstructionsChangeOnlyTheirState_stores :
    runs (.storeBcd 1) ((boot 0xF133).setIndex 0xFFD) = true ∧
      ¬ (((boot 0xF133).setIndex 0xFFD).base ≤ 0xFFC ∧ 0xFFC < ((boot 0xF133).setIndex 0xFFD).base + 3) ∧
      runs (.storeRegs 15) ((boot 0xFF55).setIndex 0xFEF) = true ∧
      ¬ (((boot 0xFF55).setIndex 0xFEF).base ≤ 0xFFF ∧
        0xFFF < ((boot 0xFF55).setIndex 0xFEF).base + ((15 : RegId).toNat + 1)) ∧
      runs (.jump 0x234) (boot 0x1234) = true := by
  decide

theorem test_witness_FlagRegisterIsZeroOrOne :
    (boot 0x8124).Running ∧ after (·.status == .run) (exec (.add 1 2) (boot 0x8124)) = true ∧
      (Instr.add 1 2).setsFlag = true ∧ after (·.status == .run) (exec (.set 15 9) (boot 0x6F09)) = true ∧
      (Instr.set 15 9).setsFlag = false ∧
      after (fun t => t.reg 15 != (boot 0x6F09).reg 15) (exec (.set 15 9) (boot 0x6F09)) = true := by
  decide

theorem test_witness_OnlyTheShiftsReadTheQuirk :
    (1 : RegId) ≠ 15 ∧ ((boot 0x8126).setReg 1 5).reg 1 ≠ ((boot 0x8126).setReg 1 5).reg 2 ∧
      (∀ x y : RegId, Instr.storeRegs 3 ≠ .shiftRight x y ∧ Instr.storeRegs 3 ≠ .shiftLeft x y) ∧
      ∃ t, exec (.storeRegs 3) (boot 0xF355) = .next t :=
  ⟨by decide, by decide, by simp, ⟨_, rfl⟩⟩

/-- Random meets the keys clause, SkipKey the random clause. -/
theorem test_witness_InputsReachOnlyTheirInstructions :
    (∃ t, exec (.random 1 15) (boot 0xC10F) = .next t) ∧
      (∀ x : RegId, Instr.random 1 15 ≠ .skipKey x ∧ Instr.random 1 15 ≠ .skipNotKey x ∧ Instr.random 1 15 ≠ .waitKey x) ∧
      (∃ t, exec (.skipKey 1) (boot 0xE19E) = .next t) ∧ ∀ x nn, Instr.skipKey 1 ≠ .random x nn :=
  ⟨⟨_, rfl⟩, by simp, ⟨_, rfl⟩, by simp⟩

theorem test_witness_CallPushesOrExhausts :
    (withSp State.reset 0).sp.val < 16 ∧ (withSp State.reset 15).sp.val < 16 ∧ (withSp State.reset 16).sp.val = 16 := by
  decide

theorem test_witness_ReturnPopsOrUnderflows :
    0 < (withSp State.reset 1).sp.val ∧ 0 < (withSp State.reset 16).sp.val ∧ (withSp State.reset 0).sp.val = 0 := by
  decide

theorem test_witness_ReturnUndoesCall : (withSp State.reset 15).sp.val < 16 := by decide

/-- The clause for destinations other than register 15, of AddWritesSumThenCarry and
SubtractionsWriteDifferenceThenNotBorrow. -/
theorem test_witness_AddAndSubtractClauses : (14 : RegId) ≠ 15 ∧ (0 : RegId) ≠ 15 := by decide

/-- Both modes; the operand is the one each selects. -/
theorem test_witness_ShiftsWriteResultThenBitShiftedOut :
    (boot 0x8126).cfg.shiftQuirk = .standard ∧ ((boot 0x8126).withQuirk .legacy).cfg.shiftQuirk = .legacy ∧
      ((boot 0x8126).setReg 1 5).reg 1 = 5 ∧ (14 : RegId) ≠ 15 := by
  decide

theorem test_witness_ShiftModesAgreeExactlyOnEqualValues :
    (1 : RegId) ≠ 15 ∧ ((boot 0x8126).setReg 1 5).reg 1 ≠ ((boot 0x8126).setReg 1 5).reg 2 ∧
      (boot 0x8126).reg 1 = (boot 0x8126).reg 2 := by
  decide

theorem test_witness_AddIndexAndFontChar :
    (State.reset.setIndex 0xFFFF).idx.toNat + ((State.reset.setIndex 0xFFFF).reg 1).toNat ≤ 0xFFFF ∧
      0xFFFF < ((State.reset.setIndex 0xFFFF).setReg 1 1).idx.toNat +
        (((State.reset.setIndex 0xFFFF).setReg 1 1).reg 1).toNat := by
  decide

theorem test_witness_StoreBcdWritesThreeDigits :
    (State.reset.setIndex 0xFFD).base + 2 ≤ 4095 ∧ 4095 < (State.reset.setIndex 0xFFE).base + 2 := by
  decide

theorem test_witness_StoreRegsStoresZeroToX :
    (State.reset.setIndex 0xFF0).base + (15 : RegId).toNat ≤ 4095 ∧
      4095 < (State.reset.setIndex 0xFF1).base + (15 : RegId).toNat := by
  decide

theorem test_witness_LoadRegsLoadsZeroToX :
    (State.reset.setIndex 0xFFF).base + (0 : RegId).toNat ≤ 4095 ∧
      4095 < (State.reset.setIndex 0xFFF).base + (1 : RegId).toNat := by
  decide

/-- DrawFlipsExactlyTheSpritePixels, DrawCollisionFlag, DrawTwiceRestoresThePicture, DrawOutOfRangeChangesNothing: no row,
the last row inside memory, the first outside. -/
theorem test_witness_Draw :
    ((0 : Nibble) = 0 ∨ (State.reset.setIndex 0xFFFF).base + (0 : Nibble).toNat - 1 ≤ 4095) ∧
      (State.reset.setIndex 0xFFD).base + (3 : Nibble).toNat - 1 ≤ 4095 ∧ (3 : Nibble) ≠ 0 ∧
      4095 < (State.reset.setIndex 0xFFE).base + (3 : Nibble).toNat - 1 := by
  decide

/-- A sprite bit over a set pixel, at the last column and row. -/
theorem test_witness_DrawCollision :
    (putRow State.reset 31 1).pixel 63 31 = true ∧
      (put (State.reset.setIndex 0x300) 0x300 [0x80]).SpriteCovers 63 31 1 63 31 :=
  ⟨by decide, 0, 0, by decide⟩

/-- PixelPrimitivesActOnOnePixel, VectoredPrimitivesActOnOneRow, ReadOutIsRowMajor: the ends of the ranges. -/
theorem test_witness_PixelPrimitives : 63 < 64 ∧ 31 < 32 ∧ (7 : Nat) ≤ 7 ∧ (0 : Nat) < 64 := by decide

theorem test_witness_VectoredPrimitivesActOnOneRow :
    patternCovers 0xFF 60 63 = true ∧ patternCovers 0xFF 60 59 = false ∧ blank.getPixel 63 0 = false := by
  decide

theorem test_witness_WaitKeyRepeatsOrTakesTheLowestKey :
    (State.reset.withKeys 0).keys = 0 ∧ (State.reset.withKeys 0x8000).keys ≠ 0 ∧
      (State.reset.withKeys 0x8000).keys.getLsbD 15 = true := by
  decide

end Sys2Proof.Tests
end

section
/-! SUPPORT. SHIFT_QUIRK (spec/30_encoding.md R104): the two shifts read it through their operand, every shared
operation commutes with its replacement, and so does every other instruction. Settles O27. -/

namespace Sys2Proof.Machine

/-! ### The values of the two shifts (R166, R167) -/

theorem toNat_flagOf (c : Bool) : (flagOf c).toNat = c.toNat := by
  cases c <;> rfl

theorem toNat_shiftedRight (v : Byte) : (shiftedRight v).toNat = v.toNat / 2 := by
  simp [shiftedRight, Nat.shiftRight_eq_div_pow]

theorem toNat_shiftedLeft (v : Byte) : (shiftedLeft v).toNat = 2 * v.toNat % 256 := by
  simp [shiftedLeft, Nat.shiftLeft_eq, Nat.mul_comm]

theorem toNat_rightOutFlag (v : Byte) : (rightOutFlag v).toNat = v.toNat % 2 := by
  rw [rightOutFlag, toNat_flagOf, BitVec.getLsbD, Nat.toNat_testBit]
  simp

theorem toNat_leftOutFlag (v : Byte) : (leftOutFlag v).toNat = v.toNat / 128 := by
  rw [leftOutFlag, toNat_flagOf, BitVec.getLsbD, Nat.toNat_testBit]
  exact Nat.mod_eq_of_lt (by omega)

/-! ### Result and flag register -/

@[simp] theorem State.reg_setRegFlag_flag (s : State) (r : RegId) (v flag : Byte) :
    (s.setRegFlag r v flag).reg 15 = flag :=
  State.reg_setReg_same _ _ _

theorem State.reg_setRegFlag_dest (s : State) {r : RegId} (v flag : Byte) (h : r ≠ 15) :
    (s.setRegFlag r v flag).reg r = v := by
  rw [State.reg_setRegFlag, if_neg (show r ≠ flagReg from h), if_pos rfl]

theorem State.shiftOperand_eq (s : State) (x y : RegId) :
    s.shiftOperand x y = if s.cfg.shiftQuirk = .legacy then s.reg y else s.reg x := by
  unfold State.shiftOperand
  cases s.cfg.shiftQuirk <;> rfl

/-- ShiftRight in every state: the operand halved, unless the flag overwrites it, and the bit shifted out (R166). -/
theorem exec_shiftRight_values (x y : RegId) (s : State) :
    ∃ t, exec (.shiftRight x y) s = .next t ∧
      (x ≠ 15 → (t.reg x).toNat = (s.shiftOperand x y).toNat / 2) ∧
      (t.reg 15).toNat = (s.shiftOperand x y).toNat % 2 := by
  refine ⟨_, rfl, fun hx => ?_, ?_⟩
  · rw [State.reg_setRegFlag_dest s _ _ hx, toNat_shiftedRight]
  · rw [State.reg_setRegFlag_flag, toNat_rightOutFlag]

/-- ShiftLeft in every state: the operand doubled, unless the flag overwrites it, and the bit shifted out (R167). -/
theorem exec_shiftLeft_values (x y : RegId) (s : State) :
    ∃ t, exec (.shiftLeft x y) s = .next t ∧
      (x ≠ 15 → (t.reg x).toNat = 2 * (s.shiftOperand x y).toNat % 256) ∧
      (t.reg 15).toNat = (s.shiftOperand x y).toNat / 128 := by
  refine ⟨_, rfl, fun hx => ?_, ?_⟩
  · rw [State.reg_setRegFlag_dest s _ _ hx, toNat_shiftedLeft]
  · rw [State.reg_setRegFlag_flag, toNat_leftOutFlag]

/-! ### Replacing the quirk

Each shared operation answers under another quirk what it answered, with the quirk replaced. -/

/-- An outcome with `f` applied to its next state. -/
def mapNext (f : State → State) : Result → Result
  | .next t => .next (f t)
  | .fault r => .fault r
  | .refused r => .refused r

@[simp] theorem mapNext_next (f : State → State) (t : State) : mapNext f (.next t) = .next (f t) := rfl

section Quirk

variable (s : State) (q : ShiftQuirk)

theorem State.shiftOperand_withQuirk (x y : RegId) :
    (s.withQuirk q).shiftOperand x y = if q = .legacy then s.reg y else s.reg x :=
  State.shiftOperand_eq _ x y

@[simp] theorem State.pc_withQuirk : (s.withQuirk q).pc = s.pc := rfl

@[simp] theorem State.idx_withQuirk : (s.withQuirk q).idx = s.idx := rfl

@[simp] theorem State.reg_withQuirk (r : RegId) : (s.withQuirk q).reg r = s.reg r := rfl

@[simp] theorem State.base_withQuirk : (s.withQuirk q).base = s.base := rfl

@[simp] theorem State.lowestKey_withQuirk : (s.withQuirk q).lowestKey = s.lowestKey := rfl

@[simp] theorem State.loadBytes_withQuirk (base n : Nat) :
    (s.withQuirk q).loadBytes base n = s.loadBytes base n := rfl

@[simp] theorem State.fetch_withQuirk : (s.withQuirk q).fetch = s.fetch := rfl

@[simp] theorem State.skipIf_withQuirk (c : Bool) : (s.withQuirk q).skipIf c = (s.skipIf c).withQuirk q := by
  cases c <;> rfl

theorem State.setRegsFrom_withQuirk (k : Nat) (bs : List Byte) :
    (s.withQuirk q).setRegsFrom k bs = (s.setRegsFrom k bs).withQuirk q := by
  induction bs generalizing s k with
  | nil => rfl
  | cons b bs ih => exact ih (s.setReg (BitVec.ofNat 4 k) b) (k + 1)

theorem State.storeBytes_withQuirk (base : Nat) (bs : List Byte) :
    (s.withQuirk q).storeBytes base bs = (s.storeBytes base bs).map (·.withQuirk q) := by
  unfold State.storeBytes
  split <;> rfl

/-- A store that raises when its range leaves memory. -/
theorem State.storeOrRaise_withQuirk (i : Instr) (c : FaultCause) (base : Nat) (bs : List Byte) :
    ((s.withQuirk q).storeBytes base bs).getD ((s.withQuirk q).raiseBy i c) =
      ((s.storeBytes base bs).getD (s.raiseBy i c)).withQuirk q := by
  rw [State.storeBytes_withQuirk]
  cases s.storeBytes base bs <;> rfl

theorem State.push_withQuirk (a : Addr) :
    (s.withQuirk q).push a = (s.push a).map (·.withQuirk q) := by
  obtain ⟨h, e⟩ | ⟨h, e⟩ := s.push_cases a
  · rw [e]
    exact dif_pos h
  · rw [e]
    exact dif_neg (Nat.not_lt.mpr h.ge)

theorem State.pop_withQuirk :
    (s.withQuirk q).pop = s.pop.map fun r => (r.1, r.2.withQuirk q) := by
  obtain ⟨h, e⟩ | ⟨h, e⟩ := s.pop_cases
  · rw [e]
    exact dif_pos h
  · rw [e]
    exact dif_neg (Nat.not_lt.mpr h.le)

/-! ### Meanings that branch -/

theorem execCall_withQuirk (nnn : Addr12) :
    execCall nnn (s.withQuirk q) = mapNext (·.withQuirk q) (execCall nnn s) := by
  rw [execCall, State.push_withQuirk, State.pc_withQuirk, execCall]
  cases s.push s.pc <;> rfl

theorem execReturn_withQuirk : execReturn (s.withQuirk q) = mapNext (·.withQuirk q) (execReturn s) := by
  rw [execReturn, State.pop_withQuirk, execReturn]
  cases s.pop <;> rfl

theorem execDraw_withQuirk (x y : RegId) (n : Nibble) :
    execDraw x y n (s.withQuirk q) = mapNext (·.withQuirk q) (execDraw x y n s) := by
  rw [execDraw, State.loadBytes_withQuirk, State.base_withQuirk, execDraw]
  cases s.loadBytes s.base n.toNat <;> rfl

theorem execAddIndex_withQuirk (x : RegId) :
    execAddIndex x (s.withQuirk q) = mapNext (·.withQuirk q) (execAddIndex x s) := by
  rw [execAddIndex, State.idx_withQuirk, State.reg_withQuirk, execAddIndex]
  split <;> rfl

theorem execLoadRegs_withQuirk (x : RegId) :
    execLoadRegs x (s.withQuirk q) = mapNext (·.withQuirk q) (execLoadRegs x s) := by
  rw [execLoadRegs, State.loadBytes_withQuirk, State.base_withQuirk, execLoadRegs]
  cases s.loadBytes s.base (x.toNat + 1) with
  | none => rfl
  | some bs => exact congrArg _ (State.setRegsFrom_withQuirk s q 0 bs)

theorem execWaitKey_withQuirk (x : RegId) :
    execWaitKey x (s.withQuirk q) = mapNext (·.withQuirk q) (execWaitKey x s) := by
  rw [execWaitKey, State.lowestKey_withQuirk, execWaitKey]
  cases s.lowestKey <;> rfl

/-- R104: under another quirk every instruction but the two shifts answers the same state with the quirk replaced. -/
theorem exec_withQuirk {i : Instr} (hi : ∀ x y, i ≠ .shiftRight x y ∧ i ≠ .shiftLeft x y) :
    exec i (s.withQuirk q) = mapNext (·.withQuirk q) (exec i s) := by
  cases i with
  | shiftRight x y => exact absurd rfl (hi x y).1
  | shiftLeft x y => exact absurd rfl (hi x y).2
  | skipEqImm | skipNeImm | skipEqReg | skipNeReg | skipKey | skipNotKey =>
    exact congrArg Host.Outcome.next (State.skipIf_withQuirk s q _)
  | storeBcd | storeRegs => exact congrArg Host.Outcome.next (State.storeOrRaise_withQuirk s q _ _ _ _)
  | ret => exact execReturn_withQuirk s q
  | call nnn => exact execCall_withQuirk s q nnn
  | draw x y n => exact execDraw_withQuirk s q x y n
  | waitKey x => exact execWaitKey_withQuirk s q x
  | addIndex x => exact execAddIndex_withQuirk s q x
  | loadRegs x => exact execLoadRegs_withQuirk s q x
  | clearScreen | jump | jumpOffset | set | addConst | assign | or | and | xor | add | sub | subN | setIndex
  | random | getDelay | setDelay | setSound | fontChar => rfl

theorem State.nextInstr_withQuirk : (s.withQuirk q).nextInstr = s.nextInstr := by
  rw [State.nextInstr, State.fetch_withQuirk, State.nextInstr]

end Quirk

/-- Settles O27: the shifts by their values at the operand the quirk selects, every other instruction because its
meaning commutes with replacing the quirk. -/
theorem onlyTheShiftsReadTheQuirk : Obligations.OnlyTheShiftsReadTheQuirk := by
  refine ⟨fun x y s q v hv => ?_, fun i s t q hi h => ?_, State.nextInstr_withQuirk⟩
  · rw [hv, ← State.shiftOperand_withQuirk]
    exact ⟨exec_shiftRight_values x y _, exec_shiftLeft_values x y _⟩
  · rw [exec_withQuirk s q hi, h, mapNext_next]

end Sys2Proof.Machine
end

section
/-! SUPPORT. Control flow (spec/40_control_flow.md R130 to R137): the frame of a write to `pc`, the two cases of Call and
of Return, the skips. Settles O29, O30, O31 and O33. -/

namespace Sys2Proof.Machine

/-! ### Frames of the shared operations -/

theorem State.onlyPc_setPc (s : State) (a : Addr) : OnlyPc s (s.setPc a) :=
  ⟨rfl, fun _ => rfl, fun _ => rfl⟩

theorem State.onlyPc_skipIf (s : State) (c : Bool) : OnlyPc s (s.skipIf c) := by
  rw [State.skipIf_eq]
  exact s.onlyPc_setPc _

theorem State.onlyLatches_raiseBy (s : State) (i : Instr) (c : FaultCause) : OnlyLatches c s (s.raiseBy i c) :=
  ⟨rfl, fun _ => rfl⟩

/-! ### Jump targets (R130, R131) -/

@[simp] theorem toNat_addrOfNNN (nnn : Addr12) : (addrOfNNN nnn).toNat = nnn.toNat :=
  BitVec.toNat_setWidth_of_le (by decide)

@[simp] theorem toNat_addrOfByte (v : Byte) : (addrOfByte v).toNat = v.toNat :=
  BitVec.toNat_setWidth_of_le (by decide)

/-- The target of JumpOffset is the sum itself: at most 0xFFF + 0xFF, it fits in 16 bits. -/
theorem toNat_addrOfNNN_add_addrOfByte (nnn : Addr12) (v : Byte) :
    (addrOfNNN nnn + addrOfByte v).toNat = nnn.toNat + v.toNat := by
  have hn : nnn.toNat < 4096 := nnn.isLt
  have hv : v.toNat < 256 := v.isLt
  rw [BitVec.toNat_add, toNat_addrOfNNN, toNat_addrOfByte, Nat.mod_eq_of_lt (by omega)]

/-- Settles O29: both jumps are one write to `pc`, and the sum of JumpOffset does not overflow. -/
theorem jumpsWriteThePc : Obligations.JumpsWriteThePc := fun nnn s =>
  ⟨⟨_, rfl, toNat_addrOfNNN nnn, s.onlyPc_setPc _⟩,
    ⟨_, rfl, toNat_addrOfNNN_add_addrOfByte nnn (s.reg 0), s.onlyPc_setPc _⟩⟩

/-! ### Call and Return (R132, R133) -/

theorem exec_call_of_not_full {s : State} (h : s.sp.val < 16) (nnn : Addr12) :
    exec (.call nnn) s = .next { s with
      pc := addrOfNNN nnn
      stack := s.stack.set s.sp.val s.pc h
      sp := ⟨s.sp.val + 1, by omega⟩ } := by
  obtain ⟨_, e⟩ | ⟨hfull, _⟩ := s.push_cases s.pc
  · rw [exec, execCall, e]
    rfl
  · omega

theorem exec_call_of_full {s : State} (h : s.sp.val = 16) (nnn : Addr12) :
    exec (.call nnn) s = .next (s.raiseBy (.call nnn) .stackExhaustion) := by
  obtain ⟨hroom, _⟩ | ⟨_, e⟩ := s.push_cases s.pc
  · omega
  · rw [exec, execCall, e]

theorem exec_ret_of_nonempty {s : State} (h : 0 < s.sp.val) :
    exec .ret s = .next { s with
      pc := s.stack[s.sp.val - 1]'(by omega)
      sp := ⟨s.sp.val - 1, by omega⟩ } := by
  obtain ⟨_, e⟩ | ⟨hempty, _⟩ := s.pop_cases
  · rw [exec, execReturn, e]
    rfl
  · omega

theorem exec_ret_of_empty {s : State} (h : s.sp.val = 0) :
    exec .ret s = .next (s.raiseBy .ret .stackUnderflow) := by
  obtain ⟨hsome, _⟩ | ⟨_, e⟩ := s.pop_cases
  · omega
  · rw [exec, execReturn, e]

/-- Settles O30: a push writes the slot at `sp` alone, and a full stack only latches. -/
theorem callPushesOrExhausts : Obligations.CallPushesOrExhausts := by
  refine fun nnn s => ⟨fun h => ?_, fun h => ⟨_, exec_call_of_full h nnn, s.onlyLatches_raiseBy _ _⟩⟩
  have other_slots (k : Fin 16) (hk : k.val ≠ s.sp.val) : (s.stack.set s.sp.val s.pc h)[k] = s.stack[k] :=
    Vector.getElem_set_ne h k.isLt hk.symm
  exact ⟨_, exec_call_of_not_full h nnn, rfl, Vector.getElem_set_self h, other_slots, toNat_addrOfNNN nnn, rfl,
    fun _ => rfl⟩

/-- Settles O31: a pop moves `sp` and answers the slot below it, and an empty stack only latches. -/
theorem returnPopsOrUnderflows : Obligations.ReturnPopsOrUnderflows := fun s =>
  ⟨fun h => ⟨_, exec_ret_of_nonempty h, rfl, rfl, rfl, fun _ => rfl⟩,
    fun h => ⟨_, exec_ret_of_empty h, s.onlyLatches_raiseBy _ _⟩⟩

/-! ### Skips (R134 to R137) -/

theorem State.pc_skipIf_beq (s : State) (a b : Byte) :
    (s.skipIf (a == b)).pc = if a = b then s.pc + 2 else s.pc := by
  simp only [State.skipIf_eq, beq_iff_eq]

theorem State.pc_skipIf_bne (s : State) (a b : Byte) :
    (s.skipIf (a != b)).pc = if a = b then s.pc else s.pc + 2 := by
  simp only [State.skipIf_eq, bne_iff_ne, ite_not]

/-- Settles O33: each of the four is one conditional skip, on equality or on its negation. -/
theorem skipsAddTwoOnTheirCondition : Obligations.SkipsAddTwoOnTheirCondition := fun x y nn _ s =>
  ⟨⟨_, rfl, s.onlyPc_skipIf _, s.pc_skipIf_beq (s.reg x) nn⟩,
    ⟨_, rfl, s.onlyPc_skipIf _, s.pc_skipIf_bne (s.reg x) nn⟩,
    ⟨_, rfl, s.onlyPc_skipIf _, s.pc_skipIf_beq (s.reg x) (s.reg y)⟩,
    ⟨_, rfl, s.onlyPc_skipIf _, s.pc_skipIf_bne (s.reg x) (s.reg y)⟩⟩

end Sys2Proof.Machine
end

section
/-! SUPPORT. Register assignment (spec/41_register_assign.md R150 to R152): the frame of a write to one register, and the
sum of AddConst. Settles O34. -/

namespace Sys2Proof.Machine

theorem State.onlyRegs_setReg (s : State) (r : RegId) (v : Byte) : OnlyRegs (· = r) s (s.setReg r v) :=
  ⟨s.setReg_eq r v, fun _ h => s.reg_setReg_other v h, fun _ => rfl⟩

/-- The sum that AddConst and Add write wraps at 256 (R152, R163). -/
theorem toNat_sumOf (a b : Byte) : (sumOf a b).toNat = (a.toNat + b.toNat) % 256 :=
  BitVec.toNat_ofNat _ _

/-- R152: the destination of AddConst reads as the wrapped sum. -/
theorem State.toNat_reg_setReg_sumOf (s : State) (r : RegId) (a b : Byte) :
    ((s.setReg r (sumOf a b)).reg r).toNat = (a.toNat + b.toNat) % 256 := by
  rw [State.reg_setReg_same, toNat_sumOf]

/-- Settles O34: each of the three is one write to the register X, and register 15 is written only where it is X. -/
theorem assignmentsWriteOneRegister : Obligations.AssignmentsWriteOneRegister := fun x y nn s =>
  ⟨⟨_, rfl, s.reg_setReg_same x nn, s.onlyRegs_setReg x _⟩,
    ⟨_, rfl, s.reg_setReg_same x (s.reg y), s.onlyRegs_setReg x _⟩,
    ⟨_, rfl, s.toNat_reg_setReg_sumOf x (s.reg x) nn, s.onlyRegs_setReg x _⟩⟩

end Sys2Proof.Machine
end

section
/-! SUPPORT. Bitwise and arithmetic instructions (spec/42_alu.md R160 to R167): the frame of a result write followed by
the flag write, and the sum, the difference and their flags as the rules state them. Settles O35, O36, O37 and O38. -/

namespace Sys2Proof.Machine

/-! ### Frame of the result and flag write (R15) -/

theorem State.onlyRegs_setRegFlag (s : State) (x : RegId) (v flag : Byte) :
    OnlyRegs (fun r => r = x ∨ r = 15) s (s.setRegFlag x v flag) := by
  refine ⟨s.setRegFlag_eq x v flag, fun r hr => ?_, fun _ => rfl⟩
  obtain ⟨hx, hflag⟩ := not_or.mp hr
  rw [State.reg_setRegFlag, if_neg (show r ≠ flagReg from hflag), if_neg hx]

/-- The frame for an outcome of which only the shape is known: one result and flag write. -/
theorem onlyRegs_of_next_setRegFlag {s t : State} {x : RegId} {v flag : Byte}
    (h : (.next (s.setRegFlag x v flag) : Result) = .next t) : OnlyRegs (fun r => r = x ∨ r = 15) s t :=
  Host.Outcome.next.inj h ▸ s.onlyRegs_setRegFlag x v flag

/-! ### Results and flags (R163 to R165, R168) -/

theorem flagOf_decide (p : Prop) [Decidable p] : flagOf (decide p) = if p then 1 else 0 := by
  simp only [flagOf, decide_eq_true_eq]

/-- R163: the stored sum is the low byte of the 9-bit sum. -/
theorem sumOf_eq_setWidth (a b : Byte) : sumOf a b = (a.setWidth 9 + b.setWidth 9).setWidth 8 := by
  have no_overflow : (a.setWidth 9 + b.setWidth 9).toNat = a.toNat + b.toNat := by
    rw [BitVec.toNat_add, BitVec.toNat_setWidth_of_le (by decide), BitVec.toNat_setWidth_of_le (by decide)]
    omega
  apply BitVec.eq_of_toNat_eq
  rw [toNat_sumOf, BitVec.toNat_setWidth, no_overflow]

/-- R164, R165: the difference taken with a borrow of 256 and narrowed is the wrapped difference. -/
theorem diffOf_eq_sub (a b : Byte) : diffOf a b = a - b := by
  apply BitVec.eq_of_toNat_eq
  rw [diffOf, BitVec.toNat_ofNat, BitVec.toNat_sub]
  omega

theorem carryFlag_eq (a b : Byte) : carryFlag a b = if 255 < a.toNat + b.toNat then 1 else 0 :=
  flagOf_decide _

theorem noBorrowFlag_eq (a b : Byte) : noBorrowFlag a b = if a.toNat ≥ b.toNat then 1 else 0 :=
  flagOf_decide _

/-- What Sub and SubN share: the write of `a - b` and of its not-borrow flag. -/
theorem State.setRegFlag_difference (s : State) (x : RegId) (a b : Byte) :
    OnlyRegs (fun r => r = x ∨ r = 15) s (s.setRegFlag x (diffOf a b) (noBorrowFlag a b)) ∧
      (x ≠ 15 → (s.setRegFlag x (diffOf a b) (noBorrowFlag a b)).reg x = a - b) ∧
      (s.setRegFlag x (diffOf a b) (noBorrowFlag a b)).reg 15 = if a.toNat ≥ b.toNat then 1 else 0 := by
  refine ⟨s.onlyRegs_setRegFlag x _ _, fun hx => ?_, ?_⟩
  · rw [State.reg_setRegFlag_dest s _ _ hx, diffOf_eq_sub]
  · rw [State.reg_setRegFlag_flag, noBorrowFlag_eq]

/-! ### The instructions -/

/-- Settles O35: each of the three is one write to the register X, whose value is read bit by bit. -/
theorem bitwiseCombinesIntoLeft : Obligations.BitwiseCombinesIntoLeft := by
  refine fun x y s => ⟨⟨_, rfl, s.onlyRegs_setReg x _, fun k => ?_⟩, ⟨_, rfl, s.onlyRegs_setReg x _, fun k => ?_⟩,
    ⟨_, rfl, s.onlyRegs_setReg x _, fun k => ?_⟩⟩
  · rw [State.reg_setReg_same, BitVec.getLsbD_or]
  · rw [State.reg_setReg_same, BitVec.getLsbD_and]
  · rw [State.reg_setReg_same, BitVec.getLsbD_xor]

/-- Settles O36: one write of the sum, then of the carry. -/
theorem addWritesSumThenCarry : Obligations.AddWritesSumThenCarry := by
  refine fun x y s => ⟨_, rfl, s.onlyRegs_setRegFlag x _ _, fun hx => ?_, ?_⟩
  · rw [State.reg_setRegFlag_dest s _ _ hx, sumOf_eq_setWidth]
  · rw [State.reg_setRegFlag_flag, carryFlag_eq]

/-- Settles O37: SubN is the write of Sub with the operands exchanged. -/
theorem subtractionsWriteDifferenceThenNotBorrow : Obligations.SubtractionsWriteDifferenceThenNotBorrow := fun x y s =>
  ⟨⟨_, rfl, s.setRegFlag_difference x (s.reg x) (s.reg y)⟩, ⟨_, rfl, s.setRegFlag_difference x (s.reg y) (s.reg x)⟩⟩

/-- Settles O38: the values of the shifts at the operand the quirk selects, with the frame of their one write. -/
theorem shiftsWriteResultThenBitShiftedOut : Obligations.ShiftsWriteResultThenBitShiftedOut := by
  intro x y s v hv
  rw [hv, ← State.shiftOperand_eq]
  obtain ⟨r, hright, right_values⟩ := exec_shiftRight_values x y s
  obtain ⟨l, hleft, left_values⟩ := exec_shiftLeft_values x y s
  exact ⟨⟨r, hright, onlyRegs_of_next_setRegFlag hright, right_values⟩,
    ⟨l, hleft, onlyRegs_of_next_setRegFlag hleft, left_values⟩⟩

end Sys2Proof.Machine
end

section
/-! SUPPORT. The index register (spec/43_memory_index.md R180): the frame of a write to `I`. Settles O40. -/

namespace Sys2Proof.Machine

theorem State.onlyIndex_setIndex (s : State) (a : Addr) : OnlyIndex s (s.setIndex a) :=
  ⟨rfl, fun _ => rfl, fun _ => rfl⟩

/-- Settles O40: SetIndex is one write to `I`, and NNN keeps its value as an address. -/
theorem setIndexWritesI : Obligations.SetIndexWritesI := fun nnn s =>
  ⟨_, rfl, toNat_addrOfNNN nnn, s.onlyIndex_setIndex _⟩

end Sys2Proof.Machine
end

section
/-! SUPPORT. Display (spec/44_display.md R206, R210): what `clear` leaves to read, and the frame of a write to the
framebuffer. Settles O45. -/

namespace Sys2Proof.Machine

/-- R206: no pixel is set after `clear`, at any coordinates (they are reduced first, R200). -/
@[simp] theorem Screen.getPixel_clear (scr : Screen) (x y : Nat) : scr.clear.getPixel x y = false := by
  rw [Screen.getPixel, Screen.rowAt_clear]
  exact BitVec.getLsbD_zero

@[simp] theorem State.reg_setScreen (s : State) (scr : Screen) (r : RegId) : (s.setScreen scr).reg r = s.reg r := rfl

@[simp] theorem State.byteAt_setScreen (s : State) (scr : Screen) (a : Nat) :
    (s.setScreen scr).byteAt a = s.byteAt a := rfl

/-- Settles O45: ClearScreen is one write of the cleared framebuffer. -/
theorem clearScreenResetsEveryPixel : Obligations.ClearScreenResetsEveryPixel := fun s =>
  ⟨_, rfl, s.screen.getPixel_clear, s.screen.changed_clear, rfl, s.reg_setScreen _, s.byteAt_setScreen _⟩

end Sys2Proof.Machine
end

section
/-! SUPPORT. The engine step (spec/50_engine_step.md R253): the value of a big-endian word, and the two outcomes of the
fetch. Settles O14. -/

namespace Sys2Proof.Machine

/-- A word read from memory is big-endian: the byte at the lower address is its high byte. -/
theorem toNat_wordOfBytes (hi lo : Byte) : (wordOfBytes hi lo).toNat = 256 * hi.toNat + lo.toNat := by
  rw [wordOfBytes, BitVec.toNat_append, ← Nat.shiftLeft_add_eq_or_of_lt lo.isLt, Nat.shiftLeft_eq, Nat.mul_comm]

/-- Where a fetch can answer, it answers the big-endian word at `pc`. -/
theorem State.fetch_of_pc_le {s : State} (h : s.pc.toNat ≤ 4094) :
    s.fetch = some (wordOfBytes (s.byteAt s.pc.toNat) (s.byteAt (s.pc.toNat + 1))) := by
  rcases s.fetch_cases with ⟨-, hf⟩ | ⟨hpc, -⟩
  · exact hf
  · omega

theorem State.fetch_of_le_pc {s : State} (h : 4095 ≤ s.pc.toNat) : s.fetch = none := by
  rcases s.fetch_cases with ⟨hpc, -⟩ | ⟨-, hf⟩
  · omega
  · exact hf

/-- A running step that cannot fetch latches the fault of the fetch and executes nothing. -/
theorem step_of_fetch_none {s : State} (h : s.status = .run) (hf : s.fetch = none) :
    step s = .next s.beginStep.fetchFault := by
  rw [step_of_run h, fetchExecute, State.fetch_beginStep, hf]

/-- The fault of the fetch, after the phases before it, writes the latch alone; its address is the `pc` of the step. -/
theorem State.fetchFault_beginStep (s : State) :
    s.beginStep.fetchFault =
      { s.beginStep with
        status := .fault, faultCause := .memoryRangeViolation, faultAddr := s.pc, faultWord := 0 } := by
  simp only [State.fetchFault, State.raise, State.beginStep_pc]

/-- Settles O14: the fetch by the value of its word, the fault by the write of the latch alone. -/
theorem fetchIsBigEndianAndRangeChecked : Obligations.FetchIsBigEndianAndRangeChecked := by
  refine fun s hrun => ⟨fun hpc => ⟨_, State.fetch_of_pc_le hpc, toNat_wordOfBytes _ _⟩, fun hpc => ?_⟩
  have hstep : step s = .next s.beginStep.fetchFault := step_of_fetch_none hrun (State.fetch_of_le_pc hpc)
  exact ⟨_, hstep, s.fetchFault_beginStep, s.beginStep_pc⟩

end Sys2Proof.Machine
end

section
/-! SUPPORT. Encoding (spec/30_encoding.md R91 to R102): the fields of a word put together, a word put together from its
fields, and the fields that the fixed bits of an opcode table row determine. Settles O1, O2, O3, O4 and O5. -/

namespace Sys2Proof.Machine

/-! ### The fields of a word put together (R91, R92) -/

section Fields

variable (f : Nibble) (x y : RegId) (n : Nibble) (nn : Byte) (nnn : Addr12)

@[simp] theorem opF_wordA : opF (wordA f nnn) = f := BitVec.extractLsb'_append_eq_left

@[simp] theorem opNNN_wordA : opNNN (wordA f nnn) = nnn := BitVec.extractLsb'_append_eq_right

@[simp] theorem opF_wordXI : opF (wordXI f x nn) = f :=
  (BitVec.extractLsb'_append_eq_of_le (by decide)).trans BitVec.extractLsb'_append_eq_left

@[simp] theorem opX_wordXI : opX (wordXI f x nn) = x :=
  (BitVec.extractLsb'_append_eq_of_le (by decide)).trans BitVec.extractLsb'_append_eq_right

@[simp] theorem opNN_wordXI : opNN (wordXI f x nn) = nn := BitVec.extractLsb'_append_eq_right

/-- Format XYN is format XI with the low byte in two halves. -/
theorem wordXYN_eq_wordXI : wordXYN f x y n = wordXI f x (y ++ n) := BitVec.append_assoc

@[simp] theorem opF_wordXYN : opF (wordXYN f x y n) = f := by
  rw [wordXYN_eq_wordXI, opF_wordXI]

@[simp] theorem opX_wordXYN : opX (wordXYN f x y n) = x := by
  rw [wordXYN_eq_wordXI, opX_wordXI]

@[simp] theorem opY_wordXYN : opY (wordXYN f x y n) = y :=
  (BitVec.extractLsb'_append_eq_of_le (by decide)).trans BitVec.extractLsb'_append_eq_right

@[simp] theorem opN_wordXYN : opN (wordXYN f x y n) = n := BitVec.extractLsb'_append_eq_right

end Fields

/-- Settles O1: in each of the formats the decoder reads back the family, the second discriminant and the operands. -/
theorem decodeInvertsEncode : Obligations.DecodeInvertsEncode := by
  intro i
  cases i with
  | clearScreen | ret => rfl
  | jump | call | setIndex | jumpOffset | skipEqImm | skipNeImm | set | addConst | random
  | skipEqReg | skipNeReg | draw => simp [encode, decode]
  | assign | or | and | xor | add | sub | shiftRight | subN | shiftLeft => simp [encode, decode, decodeFamily8]
  | skipKey | skipNotKey => simp [encode, decode, decodeFamilyE]
  | getDelay | waitKey | setDelay | setSound | addIndex | fontChar | storeBcd | storeRegs | loadRegs =>
    simp [encode, decode, decodeFamilyF]

/-! ### A word put together from its fields -/

section Formats

variable {w : Word} {f : Nibble}

theorem wordA_opNNN (hf : opF w = f) : wordA f (opNNN w) = w :=
  hf ▸ BitVec.extractLsb'_append_extractLsb' (w := 4) (len := 12)

theorem wordXI_opX_opNN (hf : opF w = f) : wordXI f (opX w) (opNN w) = w := by
  have fx : opF w ++ opX w = w.extractLsb' 8 8 := BitVec.extractLsb'_append_extractLsb'_eq_extractLsb' rfl
  rw [← hf, wordXI, fx]
  exact wordOfBytes_split w

theorem wordXYN_opX_opY_opN (hf : opF w = f) : wordXYN f (opX w) (opY w) (opN w) = w := by
  have yn : opY w ++ opN w = opNN w := BitVec.extractLsb'_append_extractLsb'_eq_extractLsb' rfl
  rw [wordXYN_eq_wordXI, yn, wordXI_opX_opNN hf]

theorem wordXI_opX {nn : Byte} (hf : opF w = f) (hnn : opNN w = nn) : wordXI f (opX w) nn = w :=
  hnn ▸ wordXI_opX_opNN hf

theorem wordXYN_opX_opY {n : Nibble} (hf : opF w = f) (hn : opN w = n) : wordXYN f (opX w) (opY w) n = w :=
  hn ▸ wordXYN_opX_opY_opN hf

end Formats

/-! ### Encoding what was decoded -/

section Families

variable {w : Word} {i : Instr}

theorem encode_of_decodeFamily0 (h : decodeFamily0 w = .ok i) : encode i = w := by
  unfold decodeFamily0 at h
  split_ifs at h with hcls hret
  · cases h
    exact hcls.symm
  · cases h
    exact hret.symm

theorem encode_of_decodeFamily8 (hf : opF w = 0x8) (h : decodeFamily8 w = .ok i) : encode i = w := by
  unfold decodeFamily8 at h
  split at h <;> cases h <;> exact wordXYN_opX_opY hf (BitVec.eq_of_toNat_eq ‹_›)

theorem encode_of_decodeFamilyE (hf : opF w = 0xE) (h : decodeFamilyE w = .ok i) : encode i = w := by
  unfold decodeFamilyE at h
  split_ifs at h <;> cases h <;> exact wordXI_opX hf ‹_›

theorem encode_of_decodeFamilyF (hf : opF w = 0xF) (h : decodeFamilyF w = .ok i) : encode i = w := by
  unfold decodeFamilyF at h
  split_ifs at h <;> cases h <;> exact wordXI_opX hf ‹_›

end Families

/-- Settles O2: the operands are the fields of the word, and the discriminants that select the arm are the others. -/
theorem encodeInvertsDecode : Obligations.EncodeInvertsDecode := by
  intro w i h
  unfold decode at h
  split at h
  case h_1 => exact encode_of_decodeFamily0 h
  case h_9 hf => exact encode_of_decodeFamily8 (BitVec.eq_of_toNat_eq hf) h
  case h_15 hf => exact encode_of_decodeFamilyE (BitVec.eq_of_toNat_eq hf) h
  case h_16 =>
    have hf : (opF w).toNat = 15 := by
      have := (opF w).isLt
      simp only [imp_false] at *
      omega
    exact encode_of_decodeFamilyF (BitVec.eq_of_toNat_eq hf) h
  case h_2 hf | h_3 hf | h_11 hf | h_12 hf =>
    cases h
    exact wordA_opNNN (BitVec.eq_of_toNat_eq hf)
  case h_4 hf | h_5 hf | h_7 hf | h_8 hf | h_13 hf =>
    cases h
    exact wordXI_opX_opNN (BitVec.eq_of_toNat_eq hf)
  case h_6 hf | h_10 hf | h_14 hf =>
    cases h
    exact wordXYN_opX_opY_opN (BitVec.eq_of_toNat_eq hf)

/-! ### The opcode table (R100, R102) -/

section Rows

variable {w : Word} {r : OpcodeRow} {f n : Nibble} {nn : Byte}

theorem opF_of_selects (h : r.selects w) (hm : opF r.mask = BitVec.allOnes 4) : opF w = opF r.bits :=
  calc opF w = opF w &&& opF r.mask := by rw [hm, BitVec.and_allOnes]
    _ = opF (w &&& r.mask) := BitVec.extractLsb'_and.symm
    _ = opF r.bits := congrArg opF h

theorem opN_of_selects (h : r.selects w) (hm : opN r.mask = BitVec.allOnes 4) : opN w = opN r.bits :=
  calc opN w = opN w &&& opN r.mask := by rw [hm, BitVec.and_allOnes]
    _ = opN (w &&& r.mask) := BitVec.extractLsb'_and.symm
    _ = opN r.bits := congrArg opN h

theorem opNN_of_selects (h : r.selects w) (hm : opNN r.mask = BitVec.allOnes 8) : opNN w = opNN r.bits :=
  calc opNN w = opNN w &&& opNN r.mask := by rw [hm, BitVec.and_allOnes]
    _ = opNN (w &&& r.mask) := BitVec.extractLsb'_and.symm
    _ = opNN r.bits := congrArg opNN h

theorem bits_eq_of_selects (h : r.selects w) (hm : r.mask = BitVec.allOnes 16) : r.bits = w := by
  rw [← h, hm, BitVec.and_allOnes]

/-- A row that fixes the family alone, in the three formats. -/
theorem wordA_of_selects (h : r.selects w) (hm : r.mask = 0xF000) (hf : opF r.bits = f) :
    wordA f (opNNN w) = w :=
  wordA_opNNN (hf ▸ opF_of_selects h (hm ▸ rfl))

theorem wordXI_of_selects (h : r.selects w) (hm : r.mask = 0xF000) (hf : opF r.bits = f) :
    wordXI f (opX w) (opNN w) = w :=
  wordXI_opX_opNN (hf ▸ opF_of_selects h (hm ▸ rfl))

theorem wordXYN_of_selects (h : r.selects w) (hm : r.mask = 0xF000) (hf : opF r.bits = f) :
    wordXYN f (opX w) (opY w) (opN w) = w :=
  wordXYN_opX_opY_opN (hf ▸ opF_of_selects h (hm ▸ rfl))

/-- A row that fixes the low nibble as well, or the low byte. -/
theorem wordXYN_fixed_of_selects (h : r.selects w) (hm : r.mask = 0xF00F) (hf : opF r.bits = f)
    (hn : opN r.bits = n) : wordXYN f (opX w) (opY w) n = w :=
  wordXYN_opX_opY (hf ▸ opF_of_selects h (hm ▸ rfl)) (hn ▸ opN_of_selects h (hm ▸ rfl))

theorem wordXI_fixed_of_selects (h : r.selects w) (hm : r.mask = 0xF0FF) (hf : opF r.bits = f)
    (hnn : opNN r.bits = nn) : wordXI f (opX w) nn = w :=
  wordXI_opX (hf ▸ opF_of_selects h (hm ▸ rfl)) (hnn ▸ opNN_of_selects h (hm ▸ rfl))

end Rows

/-- A word that selects a row is the word of an instruction of its slot: the one with the word's fields as operands. -/
theorem exists_encode_of_selects {w : Word} (k : Fin 34) (h : (opcodeRow k).selects w) :
    ∃ i : Instr, i.slot = k ∧ encode i = w :=
  match k with
  | 0 => ⟨.clearScreen, rfl, bits_eq_of_selects h rfl⟩
  | 1 => ⟨.ret, rfl, bits_eq_of_selects h rfl⟩
  | 2 => ⟨.jump _, rfl, wordA_of_selects h rfl rfl⟩
  | 3 => ⟨.call _, rfl, wordA_of_selects h rfl rfl⟩
  | 4 => ⟨.skipEqImm _ _, rfl, wordXI_of_selects h rfl rfl⟩
  | 5 => ⟨.skipNeImm _ _, rfl, wordXI_of_selects h rfl rfl⟩
  | 6 => ⟨.skipEqReg _ _ _, rfl, wordXYN_of_selects h rfl rfl⟩
  | 7 => ⟨.set _ _, rfl, wordXI_of_selects h rfl rfl⟩
  | 8 => ⟨.addConst _ _, rfl, wordXI_of_selects h rfl rfl⟩
  | 9 => ⟨.assign _ _, rfl, wordXYN_fixed_of_selects h rfl rfl rfl⟩
  | 10 => ⟨.or _ _, rfl, wordXYN_fixed_of_selects h rfl rfl rfl⟩
  | 11 => ⟨.and _ _, rfl, wordXYN_fixed_of_selects h rfl rfl rfl⟩
  | 12 => ⟨.xor _ _, rfl, wordXYN_fixed_of_selects h rfl rfl rfl⟩
  | 13 => ⟨.add _ _, rfl, wordXYN_fixed_of_selects h rfl rfl rfl⟩
  | 14 => ⟨.sub _ _, rfl, wordXYN_fixed_of_selects h rfl rfl rfl⟩
  | 15 => ⟨.shiftRight _ _, rfl, wordXYN_fixed_of_selects h rfl rfl rfl⟩
  | 16 => ⟨.subN _ _, rfl, wordXYN_fixed_of_selects h rfl rfl rfl⟩
  | 17 => ⟨.shiftLeft _ _, rfl, wordXYN_fixed_of_selects h rfl rfl rfl⟩
  | 18 => ⟨.skipNeReg _ _ _, rfl, wordXYN_of_selects h rfl rfl⟩
  | 19 => ⟨.setIndex _, rfl, wordA_of_selects h rfl rfl⟩
  | 20 => ⟨.jumpOffset _, rfl, wordA_of_selects h rfl rfl⟩
  | 21 => ⟨.random _ _, rfl, wordXI_of_selects h rfl rfl⟩
  | 22 => ⟨.draw _ _ _, rfl, wordXYN_of_selects h rfl rfl⟩
  | 23 => ⟨.skipKey _, rfl, wordXI_fixed_of_selects h rfl rfl rfl⟩
  | 24 => ⟨.skipNotKey _, rfl, wordXI_fixed_of_selects h rfl rfl rfl⟩
  | 25 => ⟨.getDelay _, rfl, wordXI_fixed_of_selects h rfl rfl rfl⟩
  | 26 => ⟨.waitKey _, rfl, wordXI_fixed_of_selects h rfl rfl rfl⟩
  | 27 => ⟨.setDelay _, rfl, wordXI_fixed_of_selects h rfl rfl rfl⟩
  | 28 => ⟨.setSound _, rfl, wordXI_fixed_of_selects h rfl rfl rfl⟩
  | 29 => ⟨.addIndex _, rfl, wordXI_fixed_of_selects h rfl rfl rfl⟩
  | 30 => ⟨.fontChar _, rfl, wordXI_fixed_of_selects h rfl rfl rfl⟩
  | 31 => ⟨.storeBcd _, rfl, wordXI_fixed_of_selects h rfl rfl rfl⟩
  | 32 => ⟨.storeRegs _, rfl, wordXI_fixed_of_selects h rfl rfl rfl⟩
  | 33 => ⟨.loadRegs _, rfl, wordXI_fixed_of_selects h rfl rfl rfl⟩
  | ⟨_ + 34, hlt⟩ => absurd hlt (by omega)

/-- The word of an instruction selects the row of its slot. -/
theorem selects_encode (i : Instr) : (opcodeRow i.slot).selects (encode i) := by
  cases i with
  | clearScreen | ret => rfl
  | jump | call | setIndex | jumpOffset => exact Laws.TableRow.selects_wordA _ _
  | skipEqImm | skipNeImm | set | addConst | random => exact Laws.TableRow.selects_wordXI_family _ _ _
  | skipEqReg | skipNeReg | draw => exact Laws.TableRow.selects_wordXYN_family _ _ _ _
  | assign | or | and | xor | add | sub | shiftRight | subN | shiftLeft =>
    exact Laws.TableRow.selects_wordXYN_low _ _ _ _
  | skipKey | skipNotKey | getDelay | waitKey | setDelay | setSound | addIndex | fontChar | storeBcd | storeRegs
  | loadRegs => exact Laws.TableRow.selects_wordXI_low _ _ _

/-- Settles O3: a word with the fixed bits of a row is the word of an instruction of its slot (and O1 reads it back); a
word that decodes is the word of its instruction (O2), so it selects that row. -/
theorem decoderAgreesWithOpcodeTable : Obligations.DecoderAgreesWithOpcodeTable := by
  intro w
  constructor
  · intro k h
    obtain ⟨i, hslot, rfl⟩ := exists_encode_of_selects k h
    exact ⟨i, decodeInvertsEncode i, hslot⟩
  · intro none_selected
    cases hd : decode w with
    | error e => exact ⟨e, rfl⟩
    | ok i =>
      have hw : encode i = w := encodeInvertsDecode w i hd
      exact absurd (hw ▸ selects_encode i) (none_selected i.slot)

/-! ### The unknown space -/

theorem toNat_opF (w : Word) : (opF w).toNat = w.toNat / 0x1000 := by
  rw [opF, BitVec.extractLsb'_toNat, Nat.shiftRight_eq_div_pow]
  have := w.isLt
  omega

theorem toNat_opN (w : Word) : (opN w).toNat = w.toNat % 16 := by
  rw [opN, BitVec.extractLsb'_toNat, Nat.shiftRight_zero]

theorem toNat_opNN (w : Word) : (opNN w).toNat = w.toNat % 256 := by
  rw [opNN, BitVec.extractLsb'_toNat, Nat.shiftRight_zero]

theorem decodeFamily0_error_iff (w : Word) :
    (∃ e, decodeFamily0 w = .error e) ↔ w.toNat ≠ 0x00E0 ∧ w.toNat ≠ 0x00EE := by
  unfold decodeFamily0
  split_ifs <;> simp_all [BitVec.toNat_eq]

theorem decodeFamily8_error_iff (w : Word) :
    (∃ e, decodeFamily8 w = .error e) ↔ 8 ≤ w.toNat % 16 ∧ w.toNat % 16 ≠ 0xE := by
  rw [← toNat_opN]
  have := (opN w).isLt
  unfold decodeFamily8
  split
  case h_10 =>
    simp only [imp_false] at *
    exact iff_of_true ⟨_, rfl⟩ (by omega)
  all_goals simp [*]

theorem decodeFamilyE_error_iff (w : Word) :
    (∃ e, decodeFamilyE w = .error e) ↔ w.toNat % 256 ≠ 0x9E ∧ w.toNat % 256 ≠ 0xA1 := by
  rw [← toNat_opNN]
  unfold decodeFamilyE
  split_ifs <;> simp_all [BitVec.toNat_eq]

theorem decodeFamilyF_error_iff (w : Word) :
    (∃ e, decodeFamilyF w = .error e) ↔
      w.toNat % 256 ∉ [0x07, 0x0A, 0x15, 0x18, 0x1E, 0x29, 0x33, 0x55, 0x65] := by
  rw [← toNat_opNN]
  unfold decodeFamilyF
  split_ifs <;> simp_all [BitVec.toNat_eq]

/-- Settles O4: the four families with a second discriminant by their lemmas; every word of the others decodes. -/
theorem unknownSpaceIsComplete : Obligations.UnknownSpaceIsComplete := by
  intro w
  rw [← decodeFamily0_error_iff, ← decodeFamily8_error_iff, ← decodeFamilyE_error_iff, ← decodeFamilyF_error_iff,
    ← toNat_opF]
  have := (opF w).isLt
  unfold decode
  split
  case h_16 =>
    have hf : (opF w).toNat = 0xF := by
      simp only [imp_false] at *
      omega
    simp [hf]
  all_goals simp [*]

/-- Settles O5: each of the words is closed, and the decoder computes. -/
theorem sampleWordsDecode : Obligations.SampleWordsDecode := by
  unfold Obligations.SampleWordsDecode
  decide

end Sys2Proof.Machine
end

section
/-! SUPPORT. An instruction by the components it can change. `State.faultOf` is the fault an instruction raises in a
state (spec/60_exceptions.md R293, R294), and each `...After` is one component of the state once the instruction has
completed, from the state of its execute phase (`pc` is `pc_i + 2` there, R254). `exec_of_fault` and `exec_of_no_fault`
say that `exec` is just that. Settles O25, O26 and O28. -/

namespace Sys2Proof.Machine

/-! ### The components -/

/-- The fault an instruction raises, if any: the sites of R293 and R294 in the execute phase. -/
def State.faultOf (s : State) : Instr → Option FaultCause
  | .call _ => if s.sp.val = 16 then some .stackExhaustion else none
  | .ret => if s.sp.val = 0 then some .stackUnderflow else none
  | .addIndex x => if 0xFFFF < s.idx.toNat + (s.reg x).toNat then some .memoryRangeViolation else none
  | .storeBcd _ => if 4095 < s.base + 2 then some .memoryRangeViolation else none
  | .storeRegs x | .loadRegs x => if 4095 < s.base + x.toNat then some .memoryRangeViolation else none
  | .draw _ _ n => if n ≠ 0 ∧ 4095 < s.base + n.toNat - 1 then some .memoryRangeViolation else none
  | _ => none

/-- The sprite a Draw of `n` rows flips in (R211). -/
def State.sprite (s : State) (n : Nibble) : List Byte := s.mem.readList s.cfg.font s.base n.toNat

/-- What a Draw gives: the collision bit and the new framebuffer (R211). -/
def State.drawn (s : State) (x y : RegId) (n : Nibble) : Bool × Screen :=
  s.screen.drawRows (s.reg x).toNat (s.reg y).toNat (s.sprite n)

/-- The registers after an instruction that completes. -/
def State.regsAfter (s : State) : Instr → Vector Byte 16
  | .set x nn => (s.setReg x nn).x
  | .addConst x nn => (s.setReg x (sumOf (s.reg x) nn)).x
  | .assign x y => (s.setReg x (s.reg y)).x
  | .or x y => (s.setReg x (s.reg x ||| s.reg y)).x
  | .and x y => (s.setReg x (s.reg x &&& s.reg y)).x
  | .xor x y => (s.setReg x (s.reg x ^^^ s.reg y)).x
  | .add x y => (s.setRegFlag x (sumOf (s.reg x) (s.reg y)) (carryFlag (s.reg x) (s.reg y))).x
  | .sub x y => (s.setRegFlag x (diffOf (s.reg x) (s.reg y)) (noBorrowFlag (s.reg x) (s.reg y))).x
  | .subN x y => (s.setRegFlag x (diffOf (s.reg y) (s.reg x)) (noBorrowFlag (s.reg y) (s.reg x))).x
  | .shiftRight x y =>
    (s.setRegFlag x (shiftedRight (s.shiftOperand x y)) (rightOutFlag (s.shiftOperand x y))).x
  | .shiftLeft x y => (s.setRegFlag x (shiftedLeft (s.shiftOperand x y)) (leftOutFlag (s.shiftOperand x y))).x
  | .random x nn => (s.setReg x (s.rnd &&& nn)).x
  | .draw x y n => (s.setReg flagReg (flagOf (s.drawn x y n).1)).x
  | .getDelay x => (s.setReg x s.dt).x
  | .waitKey x => match s.lowestKey with
    | none => s.x
    | some k => (s.setReg x (BitVec.ofNat 8 k)).x
  | .loadRegs x => Vector.ofFn fun k => if k.val ≤ x.toNat then s.byteAt (s.base + k.val) else s.x[k]
  | _ => s.x

/-- `pc` after an instruction that completes. -/
def State.pcAfter (s : State) : Instr → Addr
  | .jump nnn | .call nnn => addrOfNNN nnn
  | .jumpOffset nnn => addrOfNNN nnn + addrOfByte (s.reg 0)
  | .ret => s.stack[s.sp.val - 1]'(by omega)
  | .skipEqImm x nn => if s.reg x = nn then s.pc + 2 else s.pc
  | .skipNeImm x nn => if s.reg x = nn then s.pc else s.pc + 2
  | .skipEqReg x y _ => if s.reg x = s.reg y then s.pc + 2 else s.pc
  | .skipNeReg x y _ => if s.reg x = s.reg y then s.pc else s.pc + 2
  | .skipKey x => if s.keyDown (lowNibble (s.reg x)) then s.pc + 2 else s.pc
  | .skipNotKey x => if s.keyDown (lowNibble (s.reg x)) then s.pc else s.pc + 2
  | .waitKey _ => match s.lowestKey with
    | none => s.pc - 2
    | some _ => s.pc
  | _ => s.pc

/-- `I` after an instruction that completes. -/
def State.idxAfter (s : State) : Instr → Addr
  | .setIndex nnn => addrOfNNN nnn
  | .addIndex x => s.idx + addrOfByte (s.reg x)
  | .fontChar x => glyphAddr (lowNibble (s.reg x))
  | _ => s.idx

/-- The call stack slots after an instruction that completes. -/
def State.stackAfter (s : State) : Instr → Vector Addr 16
  | .call _ => if h : s.sp.val < 16 then s.stack.set s.sp.val s.pc h else s.stack
  | _ => s.stack

/-- `sp` after an instruction that completes. -/
def State.spAfter (s : State) : Instr → Fin 17
  | .call _ => if h : s.sp.val < 16 then ⟨s.sp.val + 1, by omega⟩ else s.sp
  | .ret => ⟨s.sp.val - 1, by omega⟩
  | _ => s.sp

/-- DT after an instruction that completes. -/
def State.dtAfter (s : State) : Instr → Byte
  | .setDelay x => s.reg x
  | _ => s.dt

/-- ST after an instruction that completes. -/
def State.stAfter (s : State) : Instr → Byte
  | .setSound x => s.reg x
  | _ => s.st

/-- Memory after an instruction that completes. -/
def State.memAfter (s : State) : Instr → Memory
  | .storeBcd x => s.mem.writeList s.cfg.font s.base (bcdDigits (s.reg x))
  | .storeRegs x => s.mem.writeList s.cfg.font s.base (s.regsUpTo x)
  | _ => s.mem

/-- The framebuffer after an instruction that completes. -/
def State.screenAfter (s : State) : Instr → Screen
  | .clearScreen => s.screen.clear
  | .draw x y n => (s.drawn x y n).2
  | _ => s.screen

/-- `rnd_take` after an instruction that completes. -/
def State.rndTakeAfter (s : State) : Instr → Bool
  | .random _ _ => true
  | _ => s.rndTake

/-- The state after an instruction that completes; the fields it does not list are changed by no instruction. -/
def State.complete (s : State) (i : Instr) : State :=
  { s with
    x := s.regsAfter i
    pc := s.pcAfter i
    idx := s.idxAfter i
    stack := s.stackAfter i
    sp := s.spAfter i
    dt := s.dtAfter i
    st := s.stAfter i
    mem := s.memAfter i
    screen := s.screenAfter i
    rndTake := s.rndTakeAfter i }

/-! ### What `exec` does -/

theorem State.skipIf_of_pc {s : State} {c : Bool} {a : Addr} (h : (s.skipIf c).pc = a) :
    s.skipIf c = { s with pc := a } := by
  rw [← h, State.skipIf_eq]

theorem State.pc_skipIf (s : State) (c : Bool) : (s.skipIf c).pc = if c then s.pc + 2 else s.pc := by
  rw [State.skipIf_eq]

theorem State.pc_skipIf_not (s : State) (c : Bool) : (s.skipIf (!c)).pc = if c then s.pc else s.pc + 2 := by
  cases c <;> rfl

/-- The check of Draw before its loads (R211) is the fault of `faultOf` negated. -/
theorem State.inRange_sprite (s : State) (x y : RegId) (n : Nibble) :
    (inRange s.base n.toNat = true ∧ s.faultOf (.draw x y n) = none) ∨
      (inRange s.base n.toNat = false ∧ s.faultOf (.draw x y n) = some .memoryRangeViolation) := by
  obtain rfl | hn := eq_or_ne n 0
  · exact Or.inl ⟨rfl, by simp [State.faultOf]⟩
  · have hpos : n.toNat ≠ 0 := fun h => hn (BitVec.eq_of_toNat_eq h)
    by_cases h : 4095 < s.base + n.toNat - 1
    · exact Or.inr ⟨decide_eq_false (by omega), if_pos ⟨hn, h⟩⟩
    · exact Or.inl ⟨decide_eq_true (by omega), if_neg fun hf => h hf.2⟩

/-- The range of the `k + 1` bytes from `I` is checked by its last address (R64, R183 to R185). -/
theorem inRange_succ (base k : Nat) : inRange base (k + 1) = decide ¬ 4095 < base + k := by
  rw [inRange, decide_eq_decide]
  omega

/-- A store of `k + 1` bytes that falls back to `u` when its range leaves memory. -/
theorem State.storeBytes_getD (s u : State) (base : Nat) {k : Nat} {bs : List Byte} (h : bs.length = k + 1) :
    (s.storeBytes base bs).getD u =
      if 4095 < base + k then u else { s with mem := s.mem.writeList s.cfg.font base bs } := by
  rw [State.storeBytes, h, inRange_succ]
  by_cases hr : 4095 < base + k <;> simp [hr]

/-- The loop of LoadRegs fills registers 0 to X and leaves the rest (R185). -/
theorem State.x_setRegsFrom_readList (s : State) (x : RegId) :
    (s.setRegsFrom 0 (s.mem.readList s.cfg.font s.base (x.toNat + 1))).x = s.regsAfter (.loadRegs x) := by
  apply Vector.ext
  intro k hk
  have hlen := Memory.length_readList (font := s.cfg.font) s.mem s.base (x.toNat + 1)
  have hreg := s.reg_setRegsFrom 0 (s.mem.readList s.cfg.font s.base (x.toNat + 1)) (BitVec.ofFin ⟨k, hk⟩) (by omega)
  refine hreg.trans ?_
  rw [if_pos (Nat.zero_le _), State.regsAfter, Vector.getElem_ofFn]
  show ((s.mem.readList s.cfg.font s.base (x.toNat + 1))[k]?).getD s.x[k] =
    if k ≤ x.toNat then s.byteAt (s.base + k) else s.x[k]
  split
  · rw [Memory.getElem?_readList _ _ _ _ (by omega)]
    rfl
  · rw [List.getElem?_eq_none (by omega)]
    rfl

/-- Every instruction answers a next state: it raises its fault, or it completes. -/
theorem exec_eq (i : Instr) (s : State) :
    exec i s = .next ((s.faultOf i).elim (s.complete i) (s.raiseBy i)) := by
  cases i with
  | skipEqImm | skipEqReg => exact congrArg Host.Outcome.next (State.skipIf_of_pc (s.pc_skipIf_beq _ _))
  | skipNeImm | skipNeReg => exact congrArg Host.Outcome.next (State.skipIf_of_pc (s.pc_skipIf_bne _ _))
  | skipKey => exact congrArg Host.Outcome.next (State.skipIf_of_pc (s.pc_skipIf _))
  | skipNotKey => exact congrArg Host.Outcome.next (State.skipIf_of_pc (s.pc_skipIf_not _))
  | call nnn =>
    by_cases h : s.sp.val < 16
    · rw [exec_call_of_not_full h, State.faultOf, if_neg h.ne, Option.elim, State.complete, State.stackAfter,
        State.spAfter, dif_pos h, dif_pos h]
      rfl
    · have hfull : s.sp.val = 16 := by omega
      rw [exec_call_of_full hfull, State.faultOf, if_pos hfull]
      rfl
  | ret =>
    by_cases h : s.sp.val = 0
    · rw [exec_ret_of_empty h, State.faultOf, if_pos h]
      rfl
    · rw [exec_ret_of_nonempty (Nat.pos_of_ne_zero h), State.faultOf, if_neg h]
      rfl
  | addIndex x =>
    rw [exec, execAddIndex, State.faultOf]
    split <;> rfl
  | storeBcd x =>
    rw [exec, execStoreBcd, State.storeBytes_getD s _ s.base (k := 2) rfl, State.faultOf]
    split <;> rfl
  | storeRegs x =>
    rw [exec, execStoreRegs, State.storeBytes_getD s _ s.base (s.length_regsUpTo x), State.faultOf]
    split <;> rfl
  | loadRegs x =>
    rw [exec, execLoadRegs, State.loadBytes, inRange_succ, State.faultOf]
    by_cases h : 4095 < s.base + x.toNat
    · simp [h]
    · simp only [h, not_false_eq_true, decide_true, if_true, if_false]
      rw [State.setRegsFrom_eq, State.x_setRegsFrom_readList]
      rfl
  | draw x y n =>
    rcases s.inRange_sprite x y n with ⟨hr, hf⟩ | ⟨hr, hf⟩
    · rw [exec, execDraw, State.loadBytes, if_pos hr, hf]
      rfl
    · rw [exec, execDraw, State.loadBytes, hr, hf]
      rfl
  | waitKey x =>
    have hf : s.faultOf (.waitKey x) = none := rfl
    rw [exec, execWaitKey, hf, Option.elim, State.complete, State.regsAfter, State.pcAfter]
    cases s.lowestKey <;> rfl
  | _ => rfl

theorem exec_of_fault {s : State} {i : Instr} {c : FaultCause} (h : s.faultOf i = some c) :
    exec i s = .next (s.raiseBy i c) := by
  rw [exec_eq, h, Option.elim]

theorem exec_of_no_fault {s : State} {i : Instr} (h : s.faultOf i = none) : exec i s = .next (s.complete i) := by
  rw [exec_eq, h, Option.elim]

/-- The two answers of an instruction. -/
theorem exec_cases {i : Instr} {s t : State} (h : exec i s = .next t) :
    (∃ c, s.faultOf i = some c ∧ t = s.raiseBy i c) ∨ (s.faultOf i = none ∧ t = s.complete i) := by
  cases hf : s.faultOf i with
  | none => exact Or.inr ⟨rfl, Host.Outcome.next.inj (h.symm.trans (exec_of_no_fault hf))⟩
  | some c => exact Or.inl ⟨c, rfl, Host.Outcome.next.inj (h.symm.trans (exec_of_fault hf))⟩

/-! ### Frames -/

section Frames

variable (s : State) {i : Instr}

theorem State.reg_complete_of_not_writes {r : RegId} (h : i.writesReg r = false) :
    (s.complete i).reg r = s.reg r := by
  cases i with
  | set | addConst | assign | or | and | xor | random | getDelay | draw =>
    exact s.reg_setReg_other _ (beq_eq_false_iff_ne.mp h)
  | add | sub | subN | shiftRight | shiftLeft =>
    obtain ⟨hx, hflag⟩ := Bool.or_eq_false_iff.mp h
    exact (s.onlyRegs_setRegFlag _ _ _).2.1 r (not_or.mpr ⟨beq_eq_false_iff_ne.mp hx, beq_eq_false_iff_ne.mp hflag⟩)
  | waitKey x =>
    show (s.regsAfter (.waitKey x))[r.toNat]'r.isLt = s.reg r
    rw [State.regsAfter]
    cases s.lowestKey with
    | none => rfl
    | some k => exact s.reg_setReg_other _ (beq_eq_false_iff_ne.mp h)
  | loadRegs x =>
    show (s.regsAfter (.loadRegs x))[r.toNat]'r.isLt = s.reg r
    rw [State.regsAfter, Vector.getElem_ofFn, if_neg (of_decide_eq_false h)]
    rfl
  | _ => rfl

theorem State.memAfter_of_ne (h : ∀ x, i ≠ .storeBcd x ∧ i ≠ .storeRegs x) : s.memAfter i = s.mem := by
  cases i with
  | storeBcd x => exact absurd rfl (h x).1
  | storeRegs x => exact absurd rfl (h x).2
  | _ => rfl

theorem State.idxAfter_of_ne (h : ∀ nnn x, i ≠ .setIndex nnn ∧ i ≠ .addIndex x ∧ i ≠ .fontChar x) :
    s.idxAfter i = s.idx := by
  cases i with
  | setIndex nnn => exact absurd rfl (h nnn 0).1
  | addIndex x => exact absurd rfl (h 0 x).2.1
  | fontChar x => exact absurd rfl (h 0 x).2.2
  | _ => rfl

theorem State.stackAfter_of_ne (h : ∀ nnn, i ≠ .call nnn) : s.stackAfter i = s.stack := by
  cases i with
  | call nnn => exact absurd rfl (h nnn)
  | _ => rfl

theorem State.spAfter_of_ne (h : ∀ nnn, i ≠ .call nnn ∧ i ≠ .ret) : s.spAfter i = s.sp := by
  cases i with
  | call nnn => exact absurd rfl (h nnn).1
  | ret => exact absurd rfl (h 0).2
  | _ => rfl

theorem State.dtAfter_of_ne (h : ∀ x, i ≠ .setDelay x) : s.dtAfter i = s.dt := by
  cases i with
  | setDelay x => exact absurd rfl (h x)
  | _ => rfl

theorem State.stAfter_of_ne (h : ∀ x, i ≠ .setSound x) : s.stAfter i = s.st := by
  cases i with
  | setSound x => exact absurd rfl (h x)
  | _ => rfl

theorem State.screenAfter_of_ne (h : ∀ x y n, i ≠ .clearScreen ∧ i ≠ .draw x y n) : s.screenAfter i = s.screen := by
  cases i with
  | clearScreen => exact absurd rfl (h 0 0 0).1
  | draw x y n => exact absurd rfl (h x y n).2
  | _ => rfl

theorem State.rndTakeAfter_of_ne (h : ∀ x nn, i ≠ .random x nn) : s.rndTakeAfter i = s.rndTake := by
  cases i with
  | random x nn => exact absurd rfl (h x nn)
  | _ => rfl

end Frames

/-- A run of bytes written leaves every address outside it alone. -/
theorem Memory.read_writeList_outside {font : Vector Byte 80} (m : Memory) {base a : Nat} {bs : List Byte}
    (h : ¬ (base ≤ a ∧ a < base + bs.length)) : (m.writeList font base bs).read font a = m.read font a := by
  rw [Memory.read_writeList]
  split
  · rw [List.getElem?_eq_none (by omega), Option.getD_none]
  · rfl

/-- Settles O25: an instruction that faults writes the latch alone; of one that completes each component has its own
frame. -/
theorem instructionsChangeOnlyTheirState : Obligations.InstructionsChangeOnlyTheirState := by
  intro i s t h
  rcases exec_cases h with ⟨c, -, rfl⟩ | ⟨-, rfl⟩
  · exact ⟨fun _ _ => rfl, fun _ _ => rfl, fun _ _ _ _ => rfl, fun _ _ _ _ => rfl, fun _ => rfl, fun _ => rfl,
      fun _ => rfl, fun _ => rfl, fun _ => rfl, fun _ => rfl, fun _ => rfl, nofun, rfl, rfl, rfl, rfl, rfl, rfl⟩
  · refine ⟨fun r => s.reg_complete_of_not_writes, fun hne a => ?_, ?_, ?_, s.idxAfter_of_ne, s.stackAfter_of_ne,
      s.spAfter_of_ne, s.dtAfter_of_ne, s.stAfter_of_ne, s.screenAfter_of_ne, s.rndTakeAfter_of_ne,
      fun _ => ⟨rfl, rfl, rfl, rfl⟩, rfl, rfl, rfl, rfl, rfl, rfl⟩
    · exact congrArg (fun m => Memory.read s.cfg.font m a) (s.memAfter_of_ne hne)
    · rintro x rfl a ha
      exact Memory.read_writeList_outside s.mem ha
    · rintro x rfl a ha
      exact Memory.read_writeList_outside s.mem (by rwa [State.length_regsUpTo])

/-! ### The flag register (R21) -/

theorem flagOf_eq_zero_or_one (c : Bool) : flagOf c = 0 ∨ flagOf c = 1 := by
  cases c
  · exact Or.inl rfl
  · exact Or.inr rfl

theorem State.flag_complete (s : State) {i : Instr} (h : i.setsFlag = true) :
    ∃ c, (s.complete i).reg 15 = flagOf c := by
  cases i with
  | add | sub | subN | shiftRight | shiftLeft => exact ⟨_, s.reg_setRegFlag_flag _ _ _⟩
  | draw => exact ⟨_, s.reg_setReg_same _ _⟩
  | _ => cases h

/-- Settles O26: a flag writer that completes leaves a flag value; any other change of register 15 is outside the
frame of an instruction that does not name it. -/
theorem flagRegisterIsZeroOrOne : Obligations.FlagRegisterIsZeroOrOne := by
  intro i s t _ h hrun
  rcases exec_cases h with ⟨c, -, rfl⟩ | ⟨-, rfl⟩
  · cases hrun
  · refine ⟨fun hflag => ?_, fun _ hne => ?_⟩
    · obtain ⟨c, hc⟩ := s.flag_complete hflag
      exact hc ▸ flagOf_eq_zero_or_one c
    · by_contra hw
      exact hne (s.reg_complete_of_not_writes (Bool.eq_false_iff.mpr hw))

/-! ### The inputs (R258, R259) -/

section Inputs

variable (s : State) (keys : BitVec 16) (rnd : Byte) {i : Instr}

theorem State.faultOf_withKeys (i : Instr) : (s.withKeys keys).faultOf i = s.faultOf i := by
  cases i <;> rfl

theorem State.faultOf_withRnd (i : Instr) : (s.withRnd rnd).faultOf i = s.faultOf i := by
  cases i <;> rfl

theorem State.complete_withKeys (h : ∀ x, i ≠ .skipKey x ∧ i ≠ .skipNotKey x ∧ i ≠ .waitKey x) :
    (s.withKeys keys).complete i = (s.complete i).withKeys keys := by
  cases i with
  | skipKey x => exact absurd rfl (h x).1
  | skipNotKey x => exact absurd rfl (h x).2.1
  | waitKey x => exact absurd rfl (h x).2.2
  | _ => rfl

theorem State.complete_withRnd (h : ∀ x nn, i ≠ .random x nn) :
    (s.withRnd rnd).complete i = (s.complete i).withRnd rnd := by
  cases i with
  | random x nn => exact absurd rfl (h x nn)
  | _ => rfl

end Inputs

/-- Settles O28: no fault depends on the two ports, and completing an instruction commutes with replacing a port it
does not read. -/
theorem inputsReachOnlyTheirInstructions : Obligations.InputsReachOnlyTheirInstructions := by
  intro i s t h
  rcases exec_cases h with ⟨c, hf, rfl⟩ | ⟨hf, rfl⟩
  · exact ⟨fun keys _ => exec_of_fault ((s.faultOf_withKeys keys i).trans hf),
      fun rnd _ => exec_of_fault ((s.faultOf_withRnd rnd i).trans hf)⟩
  · refine ⟨fun keys hi => ?_, fun rnd hi => ?_⟩
    · rw [exec_of_no_fault ((s.faultOf_withKeys keys i).trans hf), s.complete_withKeys keys hi]
    · rw [exec_of_no_fault ((s.faultOf_withRnd rnd i).trans hf), s.complete_withRnd rnd hi]

end Sys2Proof.Machine
end

section
/-! SUPPORT. The whole step (spec/50_engine_step.md R250 to R256): the four results a running step can have, and what
each does to the components of the state. Settles O10 to O13, O15 to O24. -/

namespace Sys2Proof.Machine

/-! ### The phases before the fetch (R251, R252, R207) -/

section BeginStep

variable (s : State)

@[simp] theorem State.reg_beginStep_advance (r : RegId) : s.beginStep.advance.reg r = s.reg r := by
  simp [State.reg]

@[simp] theorem State.base_beginStep_advance : s.beginStep.advance.base = s.base := by
  simp [State.base]

theorem State.toNat_cyc_beginStep : s.beginStep.cyc.toNat = (s.cyc.toNat + 1) % 2 ^ 64 := by
  rw [State.beginStep_cyc, BitVec.toNat_add]
  rfl

/-- The two timers after phase 1, on the schedule or off it. -/
theorem State.timers_beginStep :
    s.beginStep.dt = (if s.beginStep.cyc.toNat % tickModulus s.cfg = 0 then countDown s.dt else s.dt) ∧
      s.beginStep.st = if s.beginStep.cyc.toNat % tickModulus s.cfg = 0 then countDown s.st else s.st := by
  obtain ⟨_, _, _, _, h⟩ := s.beginStep_eq
  rw [h]
  exact ⟨rfl, rfl⟩

theorem State.toNat_dt_beginStep :
    s.beginStep.dt.toNat =
      if (s.cyc.toNat + 1) % 2 ^ 64 % max (s.cfg.freq / 60) 1 = 0 then s.dt.toNat - 1 else s.dt.toNat := by
  rw [s.timers_beginStep.1, State.toNat_cyc_beginStep, apply_ite BitVec.toNat, toNat_countDown, tickModulus]

theorem State.toNat_st_beginStep :
    s.beginStep.st.toNat =
      if (s.cyc.toNat + 1) % 2 ^ 64 % max (s.cfg.freq / 60) 1 = 0 then s.st.toNat - 1 else s.st.toNat := by
  rw [s.timers_beginStep.2, State.toNat_cyc_beginStep, apply_ite BitVec.toNat, toNat_countDown, tickModulus]

/-- Phases 1 and 2 leave the sampled inputs alone. -/
theorem State.inputs_beginStep :
    s.beginStep.keys = s.sampleInputs.keys ∧ s.beginStep.rnd = s.sampleInputs.rnd ∧
      s.beginStep.pending = s.sampleInputs.pending ∧ s.beginStep.draws = s.sampleInputs.draws := by
  rw [State.beginStep, State.tick_eq]
  exact ⟨rfl, rfl, rfl, rfl⟩

theorem State.sampleInputs_of_cons {inp : StepInput} {rest : List StepInput} (h : s.pending = inp :: rest) :
    s.sampleInputs = { s with keys := inp.keys, rnd := inp.rnd, pending := rest } := by
  rw [State.sampleInputs, h]

theorem State.sampleInputs_of_nil (h : s.pending = []) :
    s.sampleInputs =
      { s with keys := Config.keysInput s.draws, rnd := Config.rndInput s.draws, draws := s.draws + 1 } := by
  rw [State.sampleInputs, h]

/-- Sampling overwrites what the two ports showed (R258, R259). -/
theorem State.beginStep_withKeys_withRnd (keys : BitVec 16) (rnd : Byte) :
    ((s.withKeys keys).withRnd rnd).beginStep = s.beginStep := by
  have hsample : ((s.withKeys keys).withRnd rnd).sampleInputs = s.sampleInputs := by
    cases h : s.pending with
    | nil => exact (State.sampleInputs_of_nil _ h).trans (s.sampleInputs_of_nil h).symm
    | cons inp rest => exact (State.sampleInputs_of_cons _ h).trans (s.sampleInputs_of_cons h).symm
  rw [State.beginStep, hsample, State.beginStep]

end BeginStep

/-- Settles O11: the frame and the values of phases 1 and 2, and of the inputs by whether the host has listed any. -/
theorem phasesBeforeTheFetch : Obligations.PhasesBeforeTheFetch := by
  intro s
  obtain ⟨hkeys, hrnd, hpending, hdraws⟩ := s.inputs_beginStep
  refine ⟨s.beginStep, rfl, ?_, s.beginStep_screen, s.toNat_cyc_beginStep, fun htick => ?_, fun htick => ?_,
    fun inp rest h => ?_, fun h => ?_⟩
  · obtain ⟨_, _, _, _, h⟩ := s.beginStep_eq
    rw [h]
  · rw [State.toNat_cyc_beginStep] at htick
    rw [State.toNat_dt_beginStep, State.toNat_st_beginStep, if_pos htick, if_pos htick]
    exact ⟨rfl, rfl⟩
  · rw [s.timers_beginStep.1, s.timers_beginStep.2]
    exact ⟨if_neg htick, if_neg htick⟩
  · rw [hkeys, hrnd, hpending, hdraws, State.sampleInputs_of_cons s h]
    exact ⟨rfl, rfl, rfl, rfl⟩
  · rw [hkeys, hrnd, hpending, hdraws, State.sampleInputs_of_nil s h]
    exact ⟨rfl, rfl, h, rfl⟩

/-- Settles O23: a running step starts from `beginStep`, which does not depend on the two ports. -/
theorem stalePortValuesAreNeverRead : Obligations.StalePortValuesAreNeverRead := by
  intro s keys rnd hrun
  rw [step_of_run hrun, step_of_run (show ((s.withKeys keys).withRnd rnd).status = .run from hrun),
    State.beginStep_withKeys_withRnd]

/-! ### A faulted machine (R296) -/

theorem core_run_succ (M : Host.Core) {s t : M.State} (h : M.step s = .next t) (k : Nat) :
    M.run (k + 1) s = M.run k t := by
  rw [Host.Core.run, h]

/-- Settles O17, by induction on the number of steps. -/
theorem faultedMachineNeverChanges : Obligations.FaultedMachineNeverChanges := by
  intro s k h
  induction k with
  | zero => rfl
  | succ k ih => exact (core_run_succ core (step_of_fault h) k).trans ih

/-! ### The results of a running step (R253 to R256, R295) -/

/-- Settles O10: the fetch answers the two bytes at `pc`, and the advance is one write to `pc`. -/
theorem stepRunsTheDecodedInstruction : Obligations.StepRunsTheDecodedInstruction := by
  intro s i hrun hpc hd
  refine ⟨?_, by rw [State.advance, State.setPc, State.beginStep_pc]⟩
  have hd' : decode (wordOfBytes (s.byteAt s.pc.toNat) (s.byteAt (s.pc.toNat + 1))) = .ok i := hd
  rw [step_of_run hrun, fetchExecute, State.fetch_beginStep, State.fetch_of_pc_le hpc]
  simp only [executeWord, hd']

theorem State.instrAddr_beginStep_advance (s : State) : s.beginStep.advance.instrAddr = s.pc := by
  simp [State.instrAddr]

/-- Settles O15: the step latches the word after the advance. -/
theorem unknownWordLatchesAFault : Obligations.UnknownWordLatchesAFault := by
  intro s w e hrun hf hd
  rw [step_of_run hrun, fetchExecute, State.fetch_beginStep, hf]
  simp only [executeWord, hd, State.unknownFault, State.instrAddr_beginStep_advance]
  simp only [State.raise, State.advance, State.setPc, State.beginStep_pc]

theorem State.nextInstr_of_fetch_none {s : State} (hf : s.fetch = none) : s.nextInstr = none := by
  rw [State.nextInstr, hf]

theorem State.nextInstr_of_error {s : State} {w : Word} {e : DecodeError} (hf : s.fetch = some w)
    (hd : decode w = .error e) : s.nextInstr = none := by
  simp only [State.nextInstr, hf, hd, Except.toOption]

theorem State.nextInstr_of_ok {s : State} {w : Word} {i : Instr} (hf : s.fetch = some w)
    (hd : decode w = .ok i) : s.nextInstr = some i := by
  simp only [State.nextInstr, hf, hd, Except.toOption]

theorem State.pc_le_of_fetch_some {s : State} {w : Word} (hf : s.fetch = some w) : s.pc.toNat ≤ 4094 := by
  rcases s.fetch_cases with ⟨hpc, -⟩ | ⟨-, hnone⟩
  · exact hpc
  · rw [hnone] at hf
    cases hf

/-- Phases 1 to 3 do not change what an instruction faults on. -/
theorem State.faultOf_beginStep_advance (s : State) (i : Instr) : s.beginStep.advance.faultOf i = s.faultOf i := by
  cases i <;> simp [State.faultOf]

/-- The four results of a running step: the fetch faults, the decoder rejects the word, the instruction raises its
fault, the instruction completes. -/
inductive StepResult (s : State) : State → Prop
  | fetchFault (hf : s.fetch = none) : StepResult s (s.beginStep.raise .memoryRangeViolation s.pc 0)
  | unknown {w : Word} {e : DecodeError} (hf : s.fetch = some w) (hd : decode w = .error e) :
      StepResult s (s.beginStep.advance.raise .unknownInstruction s.pc w)
  | raised {w : Word} {i : Instr} {c : FaultCause} (hf : s.fetch = some w) (hd : decode w = .ok i)
      (hc : s.faultOf i = some c) : StepResult s (s.beginStep.advance.raise c s.pc w)
  | completed {w : Word} {i : Instr} (hf : s.fetch = some w) (hd : decode w = .ok i)
      (hc : s.faultOf i = none) : StepResult s (s.beginStep.advance.complete i)

/-- A running step answers a next state, and that is one of the four results; the word a fault latches is the word
fetched, because it is the encoding of the instruction decoded from it (O2). -/
theorem exists_stepResult {s : State} (hrun : s.status = .run) : ∃ t, step s = .next t ∧ StepResult s t := by
  rcases step_cases hrun with ⟨w, i, hf, hd, hstep⟩ | ⟨w, e, hf, hd, hstep⟩ | ⟨hf, hstep⟩
  · cases hc : s.faultOf i with
    | none =>
      exact ⟨_, hstep.trans (exec_of_no_fault ((s.faultOf_beginStep_advance i).trans hc)), .completed hf hd hc⟩
    | some c =>
      refine ⟨_, hstep.trans (exec_of_fault ((s.faultOf_beginStep_advance i).trans hc)), ?_⟩
      rw [State.raiseBy, State.instrAddr_beginStep_advance, encodeInvertsDecode w i hd]
      exact .raised hf hd hc
  · refine ⟨_, hstep, ?_⟩
    rw [State.unknownFault, State.instrAddr_beginStep_advance]
    exact .unknown hf hd
  · refine ⟨_, hstep, ?_⟩
    rw [State.fetchFault, State.beginStep_pc]
    exact .fetchFault hf

theorem stepResult_of_step {s t : State} (hrun : s.Running) (h : step s = .next t) : StepResult s t := by
  obtain ⟨u, hu, hresult⟩ := exists_stepResult hrun
  cases Host.Outcome.next.inj (h.symm.trans hu)
  exact hresult

/-- Settles O12: phase 1 counts, and no result of a step writes the counter. -/
theorem everyRunningStepCounts : Obligations.EveryRunningStepCounts := by
  intro s t hrun h
  cases stepResult_of_step hrun h <;> exact s.toNat_cyc_beginStep

/-- Settles O18: of the four results three have status FAULT, and each is one write of the latch. -/
theorem faultEntryLatchesTheInstruction : Obligations.FaultEntryLatchesTheInstruction := by
  intro s t hrun h hfault
  cases stepResult_of_step hrun h with
  | fetchFault hf =>
    have hpc : 4095 ≤ s.pc.toNat := by
      rcases s.fetch_cases with ⟨-, hsome⟩ | ⟨hpc, -⟩
      · rw [hsome] at hf
        cases hf
      · exact hpc
    exact ⟨rfl, Or.inl ⟨hpc, s.beginStep_pc, rfl, rfl⟩⟩
  | unknown hf hd =>
    exact ⟨rfl, Or.inr ⟨State.pc_le_of_fetch_some hf, congrArg (· + 2) s.beginStep_pc, hf⟩⟩
  | raised hf hd hc =>
    exact ⟨rfl, Or.inr ⟨State.pc_le_of_fetch_some hf, congrArg (· + 2) s.beginStep_pc, hf⟩⟩
  | completed hf hd hc =>
    have hstatus : s.beginStep.status = .fault := hfault
    rw [State.beginStep_status, hrun] at hstatus
    cases hstatus

/-! ### The sites of the faults (R290 to R294) -/

theorem State.faultOf_ne_none (s : State) (i : Instr) : s.faultOf i ≠ some .none := by
  cases i <;> simp [State.faultOf]

theorem State.faultOf_ne_unknownInstruction (s : State) (i : Instr) : s.faultOf i ≠ some .unknownInstruction := by
  cases i <;> simp [State.faultOf]

theorem State.faultOf_eq_stackExhaustion_iff (s : State) (i : Instr) :
    s.faultOf i = some .stackExhaustion ↔ s.sp.val = 16 ∧ ∃ nnn, i = .call nnn := by
  cases i <;> simp [State.faultOf]

theorem State.faultOf_eq_stackUnderflow_iff (s : State) (i : Instr) :
    s.faultOf i = some .stackUnderflow ↔ s.sp.val = 0 ∧ i = .ret := by
  cases i <;> simp [State.faultOf]

theorem State.faultOf_eq_memoryRangeViolation_iff (s : State) (i : Instr) :
    s.faultOf i = some .memoryRangeViolation ↔
      (∃ x, i = .addIndex x ∧ 0xFFFF < s.idx.toNat + (s.reg x).toNat) ∨
      (∃ x, i = .storeBcd x ∧ 4095 < s.base + 2) ∨
      (∃ x, (i = .storeRegs x ∨ i = .loadRegs x) ∧ 4095 < s.base + x.toNat) ∨
      (∃ x y n, i = .draw x y n ∧ n ≠ 0 ∧ 4095 < s.base + n.toNat - 1) := by
  cases i <;> simp [State.faultOf] <;> omega

/-- When a running step faults, by the cause it latches. -/
theorem StepResult.faulted_iff {s t : State} (h : StepResult s t) (hrun : s.Running) (c : FaultCause) :
    t.status = .fault ∧ t.faultCause = c ↔
      (s.fetch = none ∧ c = .memoryRangeViolation) ∨
      ((∃ w e, s.fetch = some w ∧ decode w = .error e) ∧ c = .unknownInstruction) ∨
      ∃ i, s.nextInstr = some i ∧ s.faultOf i = some c := by
  cases h with
  | fetchFault hf => simp [hf, State.nextInstr_of_fetch_none hf, eq_comm]
  | unknown hf hd => simp [hf, hd, State.nextInstr_of_error hf hd, eq_comm]
  | raised hf hd hc => simp [hf, hd, State.nextInstr_of_ok hf hd, hc]
  | @completed w i hf hd hc =>
    have hstatus : (s.beginStep.advance.complete i).status = .run := s.beginStep_status.trans hrun
    simp [hf, hd, State.nextInstr_of_ok hf hd, hc, hstatus]

theorem State.fetch_eq_none_iff (s : State) : s.fetch = none ↔ 4095 ≤ s.pc.toNat := by
  rcases s.fetch_cases with ⟨hpc, hf⟩ | ⟨hpc, hf⟩
  · exact iff_of_false (hf ▸ nofun) (by omega)
  · exact iff_of_true hf hpc

/-- Settles O19: the sites of each cause are those of the step itself and the instructions that raise it. -/
theorem faultSitesAreComplete : Obligations.FaultSitesAreComplete := by
  intro s t hrun h
  have faulted := (stepResult_of_step hrun h).faulted_iff hrun
  refine ⟨(faulted _).trans ?_, (faulted _).trans ?_, (faulted _).trans ?_, (faulted _).trans ?_⟩
  · simp [State.faultOf_ne_unknownInstruction]
  · simp only [State.faultOf_eq_stackExhaustion_iff]
    constructor
    · rintro (⟨-, hc⟩ | ⟨-, hc⟩ | ⟨i, hi, hsp, nnn, rfl⟩)
      · cases hc
      · cases hc
      · exact ⟨hsp, nnn, hi⟩
    · rintro ⟨hsp, nnn, hi⟩
      exact Or.inr (Or.inr ⟨_, hi, hsp, nnn, rfl⟩)
  · simp only [State.faultOf_eq_stackUnderflow_iff]
    constructor
    · rintro (⟨-, hc⟩ | ⟨-, hc⟩ | ⟨i, hi, hsp, rfl⟩)
      · cases hc
      · cases hc
      · exact ⟨hsp, hi⟩
    · rintro ⟨hsp, hi⟩
      exact Or.inr (Or.inr ⟨_, hi, hsp, rfl⟩)
  · rw [State.fetch_eq_none_iff]
    simp only [State.faultOf_eq_memoryRangeViolation_iff]
    constructor
    · rintro (⟨hpc, -⟩ | ⟨-, hc⟩ | ⟨i, hi, ⟨x, rfl, hr⟩ | ⟨x, rfl, hr⟩ | ⟨x, rfl | rfl, hr⟩ | ⟨x, y, n, rfl, hr⟩⟩)
      · exact Or.inl hpc
      · cases hc
      · exact Or.inr (Or.inl ⟨x, hi, hr⟩)
      · exact Or.inr (Or.inr (Or.inl ⟨x, hi, hr⟩))
      · exact Or.inr (Or.inr (Or.inr (Or.inl ⟨x, Or.inl hi, hr⟩)))
      · exact Or.inr (Or.inr (Or.inr (Or.inl ⟨x, Or.inr hi, hr⟩)))
      · exact Or.inr (Or.inr (Or.inr (Or.inr ⟨x, y, n, hi, hr⟩)))
    · rintro (hpc | ⟨x, hi, hr⟩ | ⟨x, hi, hr⟩ | ⟨x, hi | hi, hr⟩ | ⟨x, y, n, hi, hr⟩)
      · exact Or.inl ⟨hpc, trivial⟩
      · exact Or.inr (Or.inr ⟨_, hi, Or.inl ⟨x, rfl, hr⟩⟩)
      · exact Or.inr (Or.inr ⟨_, hi, Or.inr (Or.inl ⟨x, rfl, hr⟩)⟩)
      · exact Or.inr (Or.inr ⟨_, hi, Or.inr (Or.inr (Or.inl ⟨x, Or.inl rfl, hr⟩))⟩)
      · exact Or.inr (Or.inr ⟨_, hi, Or.inr (Or.inr (Or.inl ⟨x, Or.inr rfl, hr⟩))⟩)
      · exact Or.inr (Or.inr ⟨_, hi, Or.inr (Or.inr (Or.inr ⟨x, y, n, rfl, hr⟩))⟩)

/-! ### The components of the state over a step -/

/-- A step completes an instruction, or it faults: then at most `pc` and the latch differ from `beginStep`, and no
instruction that cannot fault was to be executed. -/
theorem StepResult.completes_or_faults {s t : State} (h : StepResult s t) :
    (∃ i, s.nextInstr = some i ∧ s.faultOf i = none ∧ t = s.beginStep.advance.complete i) ∨
      ((∀ i, s.nextInstr = some i → s.faultOf i ≠ none) ∧
        ∃ pc c a w, t = (s.beginStep.setPc pc).raise c a w) := by
  cases h with
  | fetchFault hf =>
    refine Or.inr ⟨fun i hi => ?_, s.beginStep.pc, _, _, _, rfl⟩
    rw [State.nextInstr_of_fetch_none hf] at hi
    cases hi
  | unknown hf hd =>
    refine Or.inr ⟨fun i hi => ?_, _, _, _, _, rfl⟩
    rw [State.nextInstr_of_error hf hd] at hi
    cases hi
  | raised hf hd hc =>
    refine Or.inr ⟨fun i hi => ?_, _, _, _, _, rfl⟩
    rw [State.nextInstr_of_ok hf hd] at hi
    cases hi
    simp [hc]
  | completed hf hd hc => exact Or.inl ⟨_, State.nextInstr_of_ok hf hd, hc, rfl⟩

/-- Settles O13: off a setter DT and ST are those of phase 1, and a setter faults in no state. -/
theorem timersFollowTheSchedule : Obligations.TimersFollowTheSchedule := by
  intro s t hrun h
  rw [← State.toNat_dt_beginStep, ← State.toNat_st_beginStep]
  rcases (stepResult_of_step hrun h).completes_or_faults with ⟨i, hi, -, rfl⟩ | ⟨hno, _, _, _, _, rfl⟩
  · rw [hi]
    refine ⟨fun hne => ?_, fun hne => ?_, ?_, ?_⟩
    · exact congrArg BitVec.toNat (State.dtAfter_of_ne _ fun x hx => hne x (congrArg some hx))
    · exact congrArg BitVec.toNat (State.stAfter_of_ne _ fun x hx => hne x (congrArg some hx))
    · rintro x ⟨⟩
      exact s.reg_beginStep_advance x
    · rintro x ⟨⟩
      exact s.reg_beginStep_advance x
  · exact ⟨fun _ => rfl, fun _ => rfl, fun x hx => absurd rfl (hno _ hx), fun x hx => absurd rfl (hno _ hx)⟩

theorem State.isEmpty_sprite (s : State) (n : Nibble) : (s.sprite n).isEmpty = decide (n = 0) := by
  rw [Bool.eq_iff_iff, List.isEmpty_iff_length_eq_zero, State.sprite, Memory.length_readList, decide_eq_true_iff,
    BitVec.toNat_eq]
  rfl

theorem State.changed_screenAfter (s : State) (i : Instr) (h : s.screen.changed = false) :
    (s.screenAfter i).changed = true ↔ i = .clearScreen ∨ ∃ x y n, i = .draw x y n ∧ n ≠ 0 := by
  cases i with
  | clearScreen => exact iff_of_true rfl (Or.inl rfl)
  | draw x y n => simp [State.screenAfter, State.drawn, Screen.changed_drawRows, h, State.isEmpty_sprite]
  | _ => simp [State.screenAfter, h]

theorem State.faultOf_draw_eq_none_iff (s : State) (x y : RegId) (n : Nibble) :
    s.faultOf (.draw x y n) = none ↔ (n ≠ 0 → s.base + n.toNat - 1 ≤ 4095) := by
  rw [State.faultOf, ite_eq_right_iff, ← Nat.not_lt]
  simp only [reduceCtorEq, imp_false, not_and]

/-- Settles O21: `changed` is cleared in phase 2, and a Draw that completes has its sprite in memory. -/
theorem changedDescribesTheLastStep : Obligations.ChangedDescribesTheLastStep := by
  intro s t hrun h
  have hclear : s.beginStep.advance.screen.changed = false := congrArg Screen.changed s.beginStep_screen
  rcases (stepResult_of_step hrun h).completes_or_faults with ⟨i, hi, hc, rfl⟩ | ⟨hno, _, _, _, _, rfl⟩
  · refine (State.changed_screenAfter _ i hclear).trans ?_
    rw [hi]
    constructor
    · rintro (rfl | ⟨x, y, n, rfl, hn⟩)
      · exact Or.inl rfl
      · exact Or.inr ⟨x, y, n, rfl, hn, (s.faultOf_draw_eq_none_iff x y n).mp hc hn⟩
    · rintro (heq | ⟨x, y, n, heq, hn, -⟩)
      · exact Or.inl (Option.some.inj heq)
      · exact Or.inr ⟨x, y, n, Option.some.inj heq, hn⟩
  · refine iff_of_false (fun hchanged => Bool.false_ne_true (hclear.symm.trans hchanged)) ?_
    rintro (hi | ⟨x, y, n, hi, hn, hr⟩)
    · exact hno _ hi rfl
    · exact hno _ hi ((s.faultOf_draw_eq_none_iff x y n).mpr fun _ => hr)

theorem State.rndTakeAfter_eq_true_iff (s : State) (i : Instr) (h : s.rndTake = false) :
    s.rndTakeAfter i = true ↔ ∃ x nn, i = .random x nn := by
  cases i with
  | random x nn => exact iff_of_true rfl ⟨x, nn, rfl⟩
  | _ => simp [State.rndTakeAfter, h]

/-- Settles O22: the strobe is cleared in phase 2, and Random faults in no state. -/
theorem randomStrobeMarksRandomOnly : Obligations.RandomStrobeMarksRandomOnly := by
  intro s t hrun h
  have hclear : s.beginStep.advance.rndTake = false := s.beginStep_rndTake
  rcases (stepResult_of_step hrun h).completes_or_faults with ⟨i, hi, -, rfl⟩ | ⟨hno, _, _, _, _, rfl⟩
  · rw [hi]
    simp only [Option.some.injEq]
    exact State.rndTakeAfter_eq_true_iff _ i hclear
  · refine iff_of_false (fun htake => Bool.false_ne_true (hclear.symm.trans htake)) ?_
    rintro ⟨x, nn, hi⟩
    exact hno _ hi rfl

/-! ### The program counter over a step (R24) -/

theorem toNat_lowNibble (v : Byte) : (lowNibble v).toNat = v.toNat % 16 := BitVec.toNat_setWidth ..

theorem State.lowestKey_eq_none_iff (s : State) : s.lowestKey = none ↔ s.keys = 0 := by
  rw [State.lowestKey, List.find?_range_eq_none]
  constructor
  · intro h
    apply BitVec.eq_of_getLsbD_eq
    intro k hk
    simpa using h k hk
  · intro h
    simp [h]

theorem State.pcAfter_waitKey (s : State) (x : RegId) :
    s.pcAfter (.waitKey x) = if s.keys = 0 then s.pc - 2 else s.pc := by
  rw [State.pcAfter]
  cases hk : s.lowestKey with
  | none => exact (if_pos (s.lowestKey_eq_none_iff.mp hk)).symm
  | some k =>
    refine (if_neg fun hkeys => ?_).symm
    rw [s.lowestKey_eq_none_iff.mpr hkeys] at hk
    cases hk

/-- The advance does not wrap where a fetch succeeds. -/
theorem State.toNat_pc_beginStep_advance {s : State} (h : s.pc.toNat ≤ 4094) :
    s.beginStep.advance.pc.toNat = s.pc.toNat + 2 := by
  rw [State.advance_pc, State.beginStep_pc, BitVec.toNat_add]
  exact Nat.mod_eq_of_lt (show s.pc.toNat + 2 < 65536 by omega)

section Skips

variable {s : State} (h : s.pc.toNat ≤ 4094)

include h

theorem State.toNat_pc_add_two_beginStep_advance : (s.beginStep.advance.pc + 2).toNat = s.pc.toNat + 4 := by
  rw [BitVec.toNat_add, State.toNat_pc_beginStep_advance h]
  exact Nat.mod_eq_of_lt (show s.pc.toNat + 2 + 2 < 65536 by omega)

/-- A skip over a step, and a skip on the negated condition. -/
theorem State.toNat_skip (c : Prop) [Decidable c] :
    (if c then s.beginStep.advance.pc + 2 else s.beginStep.advance.pc).toNat =
      s.pc.toNat + if c then 4 else 2 := by
  split
  · exact State.toNat_pc_add_two_beginStep_advance h
  · exact State.toNat_pc_beginStep_advance h

theorem State.toNat_skip_unless (c : Prop) [Decidable c] :
    (if c then s.beginStep.advance.pc else s.beginStep.advance.pc + 2).toNat =
      s.pc.toNat + if ¬ c then 4 else 2 := by
  rw [← ite_not, State.toNat_skip h]

theorem State.toNat_pcAfter_waitKey (x : RegId) :
    (s.beginStep.advance.pcAfter (.waitKey x)).toNat =
      s.pc.toNat + if s.beginStep.keys = 0 then 0 else 2 := by
  rw [State.pcAfter_waitKey, State.advance_keys]
  split
  · exact congrArg BitVec.toNat s.instrAddr_beginStep_advance
  · exact State.toNat_pc_beginStep_advance h

end Skips

/-- The key a key instruction tests, over a step. -/
theorem State.keyDown_beginStep_advance (s : State) (x : RegId) :
    s.beginStep.advance.keyDown (lowNibble (s.beginStep.advance.reg x)) =
      s.beginStep.keys.getLsbD ((s.reg x).toNat % 16) := by
  rw [State.keyDown, toNat_lowNibble, State.reg_beginStep_advance, State.advance_keys]

theorem State.pcAfter_ret_beginStep_advance (s : State) :
    s.beginStep.advance.pcAfter .ret = s.stack[s.sp.val - 1]'(by omega) := by
  obtain ⟨_, _, _, _, h⟩ := s.beginStep_eq
  rw [h]
  rfl

/-- Settles O20: `pcAfter` from the advanced `pc`, which wraps nowhere. -/
theorem pcAfterEachInstruction : Obligations.PcAfterEachInstruction := by
  intro s t i hrun hi h htrun
  cases stepResult_of_step hrun h with
  | fetchFault | unknown | raised => cases htrun
  | @completed w j hf hd hc =>
    obtain rfl : j = i := Option.some.inj ((State.nextInstr_of_ok hf hd).symm.trans hi)
    have hpc := State.pc_le_of_fetch_some hf
    show (s.beginStep.advance.pcAfter j).toNat = _
    cases j with
    | jump nnn | call nnn => exact toNat_addrOfNNN nnn
    | jumpOffset nnn => rw [State.pcAfter, State.reg_beginStep_advance, toNat_addrOfNNN_add_addrOfByte]
    | ret => rw [State.pcAfter_ret_beginStep_advance]
    | skipEqImm x nn => rw [State.pcAfter, State.reg_beginStep_advance, State.toNat_skip hpc]
    | skipNeImm x nn => rw [State.pcAfter, State.reg_beginStep_advance, State.toNat_skip_unless hpc]
    | skipEqReg x y n =>
      rw [State.pcAfter, State.reg_beginStep_advance, State.reg_beginStep_advance, State.toNat_skip hpc]
    | skipNeReg x y n =>
      rw [State.pcAfter, State.reg_beginStep_advance, State.reg_beginStep_advance, State.toNat_skip_unless hpc]
    | skipKey x => rw [State.pcAfter, State.keyDown_beginStep_advance, State.toNat_skip hpc]
    | skipNotKey x => rw [State.pcAfter, State.keyDown_beginStep_advance, State.toNat_skip_unless hpc, ite_not]
    | waitKey x => exact State.toNat_pcAfter_waitKey hpc x
    | _ => exact State.toNat_pc_beginStep_advance hpc

/-! ### The outcome of a step (R256) -/

theorem FaultCause.mem_of_ne_none {c : FaultCause} (h : c ≠ .none) :
    c ∈ [FaultCause.unknownInstruction, .stackExhaustion, .stackUnderflow, .memoryRangeViolation] := by
  cases c with
  | none => exact absurd rfl h
  | _ => decide

theorem State.latchOk_of_run {s : State} (h : s.LatchOk) (hrun : s.status = .run) :
    s.faultCause = .none ∧ s.faultAddr = 0 ∧ s.faultWord = 0 := by
  rw [State.LatchOk, hrun] at h
  exact h

theorem State.latchOk_of_fault {s : State} (h : s.LatchOk) (hfault : s.status = .fault) :
    s.faultCause ≠ .none ∧ s.faultAddr.toNat ≤ 0x10FE ∧ s.rndTake = false := by
  rw [State.LatchOk, hfault] at h
  exact h

/-- Settles O16: a step that completes keeps the latch as it was, and no fault has the cause `none`. -/
theorem everyStepAnswersOkOrAFault : Obligations.EveryStepAnswersOkOrAFault := by
  intro s
  cases hs : s.status with
  | fault =>
    exact ⟨s, step_of_fault hs, fun hinv =>
      Or.inr ⟨hs, FaultCause.mem_of_ne_none (State.latchOk_of_fault hinv.latchOk hs).1⟩⟩
  | run =>
    obtain ⟨t, hstep, hresult⟩ := exists_stepResult hs
    refine ⟨t, hstep, fun hinv => ?_⟩
    cases hresult with
    | fetchFault hf => exact Or.inr ⟨rfl, FaultCause.mem_of_ne_none nofun⟩
    | unknown hf hd => exact Or.inr ⟨rfl, FaultCause.mem_of_ne_none nofun⟩
    | raised hf hd hc =>
      exact Or.inr ⟨rfl, FaultCause.mem_of_ne_none fun h => s.faultOf_ne_none _ (hc.trans (congrArg some h))⟩
    | completed hf hd hc =>
      exact Or.inl ⟨s.beginStep_status.trans hs,
        s.beginStep_faultCause.trans (State.latchOk_of_run hinv.latchOk hs).1⟩

/-! ### The end of a program (R264) -/

/-- The word an ended program fetches is a Jump to the address it is fetched from. -/
theorem jump_self_word {pc : Addr} (h : pc.toNat ≤ 4094) : 0x1000 ||| pc = encode (.jump (pc.setWidth 12)) := by
  apply BitVec.eq_of_toNat_eq
  rw [encode, wordA, BitVec.toNat_append, BitVec.toNat_setWidth, Nat.mod_eq_of_lt (by omega), BitVec.toNat_or]
  rfl

theorem addrOfNNN_setWidth {pc : Addr} (h : pc.toNat ≤ 4094) : addrOfNNN (pc.setWidth 12) = pc := by
  apply BitVec.eq_of_toNat_eq
  rw [toNat_addrOfNNN, BitVec.toNat_setWidth, Nat.mod_eq_of_lt (by omega)]

/-- A Jump to the `pc` of the step undoes the advance. -/
theorem State.complete_jump_self {s : State} (h : s.pc.toNat ≤ 4094) :
    s.beginStep.advance.complete (.jump (s.pc.setWidth 12)) = s.beginStep := by
  show { s.beginStep with pc := addrOfNNN (s.pc.setWidth 12) } = s.beginStep
  rw [addrOfNNN_setWidth h, ← s.beginStep_pc]

/-- Settles O24: the step completes a Jump to the `pc` it started from, so only phases 1 and 2 remain of it. -/
theorem endOfProgramIsALoop : Obligations.EndOfProgramIsALoop := by
  intro s hrun hend
  have hpc : s.pc.toNat ≤ 4094 := State.pc_le_of_fetch_some hend
  have hnext : s.nextInstr = some (.jump (s.pc.setWidth 12)) :=
    State.nextInstr_of_ok hend (jump_self_word hpc ▸ decodeInvertsEncode _)
  have hstep : step s = .next s.beginStep := by
    obtain ⟨t, ht, hresult⟩ := exists_stepResult hrun
    rcases hresult.completes_or_faults with ⟨i, hi, -, rfl⟩ | ⟨hno, -⟩
    · cases Option.some.inj (hnext.symm.trans hi)
      rw [ht, State.complete_jump_self hpc]
    · exact absurd rfl (hno _ hnext)
  refine ⟨s.beginStep, hstep, s.beginStep_status.trans hrun, ?_, ?_, ?_, ?_⟩
  · rw [State.AtEnd, State.fetch_beginStep, State.beginStep_pc]
    exact hend
  · obtain ⟨_, _, _, _, h⟩ := s.beginStep_eq
    rw [h]
    rfl
  · rw [State.toNat_dt_beginStep]
    split <;> omega
  · rw [State.toNat_st_beginStep]
    split <;> omega

end Sys2Proof.Machine
end

section
/-! SUPPORT. The invariant (spec/10_state.md R25, R33, spec/20_memory.md R61): every component it bounds stays in its
bounds over a step, construction establishes it, and its canonical form of memory is unique. Settles O6 to O9. -/

namespace Sys2Proof.Machine

/-! ### The bounded components after an instruction that completes -/

section Complete

variable {s : State} {i : Instr}

theorem State.wf_memAfter (hmem : s.mem.wf s.cfg.font = true) (hc : s.faultOf i = none) :
    (s.memAfter i).wf s.cfg.font = true := by
  cases i with
  | storeBcd x =>
    have hr : s.base + 2 ≤ 4095 := by simpa [State.faultOf] using hc
    exact Memory.wf_writeList hmem (Or.inr (show s.base + 3 ≤ 4096 by omega))
  | storeRegs x =>
    have hr : s.base + x.toNat ≤ 4095 := by simpa [State.faultOf] using hc
    exact Memory.wf_writeList hmem (Or.inr (by rw [State.length_regsUpTo, memorySize]; omega))
  | _ => exact hmem

theorem State.toNat_stackAfter_le (hpc : s.pc.toNat ≤ 4096) (hstack : ∀ k : Fin 16, s.stack[k].toNat ≤ 4096)
    (k : Fin 16) : (s.stackAfter i)[k].toNat ≤ 4096 := by
  cases i with
  | call nnn =>
    rw [State.stackAfter]
    split
    · rw [Fin.getElem_fin, Vector.getElem_set]
      split
      · exact hpc
      · exact hstack k
    · exact hstack k
  | _ => exact hstack k

/-- R25: the largest `pc` an instruction leaves is that of JumpOffset, 0xFFF + 0xFF. -/
theorem State.toNat_pcAfter_le (hlow : 2 ≤ s.pc.toNat) (hpc : s.pc.toNat ≤ 4096)
    (hstack : ∀ k : Fin 16, s.stack[k].toNat ≤ 4096) : (s.pcAfter i).toNat ≤ 0x10FE := by
  have hskip : (s.pc + 2).toNat ≤ 0x10FE := by bv_omega
  have hback : (s.pc - 2).toNat ≤ 0x10FE := by bv_omega
  have hstay : s.pc.toNat ≤ 0x10FE := by omega
  cases i with
  | jump nnn | call nnn =>
    have := nnn.isLt
    exact (toNat_addrOfNNN nnn).trans_le (by omega)
  | jumpOffset nnn =>
    have := nnn.isLt
    have := (s.reg 0).isLt
    exact (toNat_addrOfNNN_add_addrOfByte nnn (s.reg 0)).trans_le (by omega)
  | ret => exact (hstack ⟨s.sp.val - 1, by omega⟩).trans (by decide)
  | skipEqImm | skipNeImm | skipEqReg | skipNeReg | skipKey | skipNotKey =>
    rw [State.pcAfter]
    split <;> assumption
  | waitKey x =>
    rw [State.pcAfter_waitKey]
    split <;> assumption
  | _ => exact hstay

end Complete

/-! ### The invariant over a step -/

section Step

variable {s : State} (h : s.Inv)

include h

theorem State.Inv.stackBounded_beginStep (k : Fin 16) : s.beginStep.stack[k].toNat ≤ 4096 :=
  s.beginStep_stack ▸ h.stackBounded k

theorem State.Inv.memCanonical_beginStep : s.beginStep.mem.wf s.beginStep.cfg.font = true := by
  rw [State.beginStep_mem, State.beginStep_cfg]
  exact h.memCanonical

/-- A fault latched after phases 1 to 3 keeps the invariant, whatever its cause. -/
theorem State.Inv.raise_beginStep {pc : Addr} (hpc : pc.toNat ≤ 0x10FE) {c : FaultCause} (hc : c ≠ .none) (w : Word) :
    ((s.beginStep.setPc pc).raise c s.pc w).Inv where
  memCanonical := h.memCanonical_beginStep
  pcBounded := hpc
  stackBounded := h.stackBounded_beginStep
  latchOk := ⟨hc, h.pcBounded, s.beginStep_rndTake⟩

theorem State.Inv.complete_beginStep (hrun : s.status = .run) (hpc : s.pc.toNat ≤ 4094) {i : Instr}
    (hc : s.faultOf i = none) : (s.beginStep.advance.complete i).Inv where
  memCanonical := State.wf_memAfter h.memCanonical_beginStep ((s.faultOf_beginStep_advance i).trans hc)
  pcBounded := by
    have hadvance := State.toNat_pc_beginStep_advance hpc
    exact State.toNat_pcAfter_le (by omega) (by omega) h.stackBounded_beginStep
  stackBounded := by
    have hadvance := State.toNat_pc_beginStep_advance hpc
    exact State.toNat_stackAfter_le (by omega) h.stackBounded_beginStep
  latchOk := by
    have hstatus : (s.beginStep.advance.complete i).status = .run := s.beginStep_status.trans hrun
    rw [State.LatchOk, hstatus]
    obtain ⟨hcause, haddr, hword⟩ := State.latchOk_of_run h.latchOk hrun
    exact ⟨s.beginStep_faultCause.trans hcause, s.beginStep_faultAddr.trans haddr, s.beginStep_faultWord.trans hword⟩

end Step

/-- Settles O6: a faulted machine stays as it is; a running one has one of the four results of a step. -/
theorem everyStepKeepsTheInvariant : Obligations.EveryStepKeepsTheInvariant := by
  intro s t hinv h
  cases hs : s.status with
  | fault =>
    cases Host.Outcome.next.inj (h.symm.trans (step_of_fault hs))
    exact hinv
  | run =>
    have hadvance (hpc : s.pc.toNat ≤ 4094) : s.beginStep.advance.pc.toNat ≤ 0x10FE := by
      rw [State.toNat_pc_beginStep_advance hpc]
      omega
    cases stepResult_of_step hs h with
    | fetchFault hf =>
      have hpc : s.beginStep.pc.toNat ≤ 0x10FE := s.beginStep_pc ▸ hinv.pcBounded
      exact hinv.raise_beginStep (c := .memoryRangeViolation) hpc nofun 0
    | unknown hf hd =>
      exact hinv.raise_beginStep (c := .unknownInstruction) (hadvance (State.pc_le_of_fetch_some hf)) nofun _
    | raised hf hd hc =>
      have hcause := fun e => s.faultOf_ne_none _ (hc.trans (congrArg some e))
      exact hinv.raise_beginStep (hadvance (State.pc_le_of_fetch_some hf)) hcause _
    | completed hf hd hc => exact hinv.complete_beginStep hs (State.pc_le_of_fetch_some hf) hc

/-! ### Construction (R330, R331) -/

theorem State.construct_eq_none {cfg : Config} {image : List Byte} (h : 3584 < image.length) :
    State.construct cfg image = none :=
  if_neg (by simpa [imageFits] using h)

theorem State.construct_eq_some {cfg : Config} {image : List Byte} (h : image.length ≤ 3584) :
    State.construct cfg image =
      some { State.reset with cfg := cfg, mem := Memory.writeList cfg.font [] 0x200 image } :=
  if_pos (by simpa [imageFits] using h)

/-- The only bounds that need an argument are those of memory: the others are of constants. -/
theorem State.inv_of_construct {cfg : Config} {image : List Byte} {t : State}
    (h : State.construct cfg image = some t) : t.Inv := by
  have hmem := State.wf_construct h
  unfold State.construct at h
  split at h
  · cases h
    have hpc : (0x200 : Addr).toNat ≤ 0x10FE := by decide
    refine ⟨hmem, hpc, fun k => ?_, ⟨rfl, rfl, rfl⟩⟩
    show ((Vector.replicate 16 (0 : Addr))[k.val]).toNat ≤ 4096
    rw [Vector.getElem_replicate]
    decide
  · cases h

/-- Settles O7: the reset state is a construction. -/
theorem resetMeetsTheInvariant : Obligations.ResetMeetsTheInvariant :=
  State.inv_of_construct State.construct_empty

theorem resetByte_font (font : Vector Byte 80) (k : Fin 80) : resetByte font (0x50 + k.val) = font[k] := by
  rw [resetByte, dif_pos ⟨Nat.le_add_right _ _, by omega⟩]
  simp

theorem resetByte_of_not_font (font : Vector Byte 80) {a : Nat} (h : ¬ (0x50 ≤ a ∧ a < 0xA0)) :
    resetByte font a = 0 :=
  dif_neg h

/-- Settles O8: the image fits above 0x200, past the font; an address outside it reads as the reset contents. -/
theorem constructionGivesTheResetState : Obligations.ConstructionGivesTheResetState := by
  intro cfg image
  refine ⟨State.construct_eq_none, fun hlen => ⟨_, State.construct_eq_some hlen,
    State.inv_of_construct (State.construct_eq_some hlen), rfl, fun r => ?_, rfl, rfl, rfl, fun k => ?_, rfl, rfl, rfl,
    fun x y => ?_, rfl, rfl, rfl, rfl, rfl, fun k => ?_, fun k hk => ?_, fun a hfont himage => ?_⟩⟩
  · exact Vector.getElem_replicate r.isLt
  · exact Vector.getElem_replicate k.isLt
  · show ((Vector.replicate 32 (0 : RowMask))[y % 32]'_).getLsbD _ = false
    rw [Vector.getElem_replicate]
    exact BitVec.getLsbD_zero
  · exact (Memory.read_writeList_outside [] (by omega)).trans (resetByte_font cfg.font k)
  · refine (Memory.read_writeList image [] 0x200 (0x200 + k)).trans ?_
    rw [if_pos (Nat.le_add_right _ _), Nat.add_sub_cancel_left, List.getElem?_eq_getElem hk, Option.getD_some]
  · exact (Memory.read_writeList_outside [] himage).trans (resetByte_of_not_font cfg.font hfont)

/-! ### The canonical form is one form -/

section Canonical

variable {font : Vector Byte 80}

@[simp] theorem Memory.find_cons_same (c : Nat) (v : Byte) (m : Memory) : Memory.find c ((c, v) :: m) = some v :=
  if_pos rfl

theorem Memory.find_cons_other {a c : Nat} (v : Byte) (m : Memory) (h : a ≠ c) :
    Memory.find a ((c, v) :: m) = m.find a :=
  if_neg h.symm

theorem Memory.find_of_wfFrom_of_lt {m : Memory} {lo a : Nat} (hm : Memory.wfFrom font lo m = true) (ha : a < lo) :
    m.find a = none := by
  induction m generalizing lo with
  | nil => rfl
  | cons cell m ih =>
    obtain ⟨hlo, -, -, htail⟩ := Memory.wfFrom_cons.mp hm
    rw [Memory.find_cons_other _ _ (by omega), ih htail (by omega)]

theorem Memory.find_ne_resetByte {m : Memory} {lo a : Nat} (hm : Memory.wfFrom font lo m = true) :
    m.find a ≠ some (resetByte font a) := by
  induction m generalizing lo with
  | nil => exact nofun
  | cons cell m ih =>
    obtain ⟨c, v⟩ := cell
    obtain ⟨-, -, hv, htail⟩ := Memory.wfFrom_cons.mp hm
    by_cases hac : a = c
    · subst hac
      rw [Memory.find_cons_same]
      exact fun e => hv (Option.some.inj e)
    · rw [Memory.find_cons_other v m hac]
      exact ih htail

/-- In a canonical memory the reads determine which cells are listed, and with which byte. -/
theorem Memory.find_eq_of_read_eq {m m' : Memory} {lo lo' a : Nat} (hm : Memory.wfFrom font lo m = true)
    (hm' : Memory.wfFrom font lo' m' = true) (h : m.read font a = m'.read font a) : m.find a = m'.find a := by
  have hne := Memory.find_ne_resetByte (a := a) hm
  have hne' := Memory.find_ne_resetByte (a := a) hm'
  unfold Memory.read at h
  cases hf : m.find a with
  | none =>
    cases hf' : m'.find a with
    | none => rfl
    | some v' =>
      rw [hf, hf', Option.getD_none, Option.getD_some] at h
      exact absurd (hf'.trans (congrArg some h.symm)) hne'
  | some v =>
    cases hf' : m'.find a with
    | none =>
      rw [hf, hf', Option.getD_none, Option.getD_some] at h
      exact absurd (hf.trans (congrArg some h)) hne
    | some v' =>
      rw [hf, hf', Option.getD_some, Option.getD_some] at h
      rw [h]

theorem Memory.eq_of_find_eq {m m' : Memory} {lo : Nat} (hm : Memory.wfFrom font lo m = true)
    (hm' : Memory.wfFrom font lo m' = true) (h : ∀ a, m.find a = m'.find a) : m = m' := by
  induction m generalizing lo m' with
  | nil =>
    cases m' with
    | nil => rfl
    | cons cell' m' =>
      obtain ⟨c', v'⟩ := cell'
      simpa using h c'
  | cons cell m ih =>
    obtain ⟨c, v⟩ := cell
    obtain ⟨-, -, -, htail⟩ := Memory.wfFrom_cons.mp hm
    cases m' with
    | nil => simpa using h c
    | cons cell' m' =>
      obtain ⟨c', v'⟩ := cell'
      obtain ⟨-, -, -, htail'⟩ := Memory.wfFrom_cons.mp hm'
      have hc : c = c' := by
        by_contra hne
        rcases Nat.lt_or_gt_of_ne hne with hlt | hlt
        · have hfind := h c
          rw [Memory.find_cons_same, Memory.find_cons_other v' m' hne,
            Memory.find_of_wfFrom_of_lt htail' (by omega)] at hfind
          cases hfind
        · have hfind := h c'
          rw [Memory.find_cons_same, Memory.find_cons_other v m (Ne.symm hne),
            Memory.find_of_wfFrom_of_lt htail (by omega)] at hfind
          cases hfind
      subst hc
      have hv : v = v' := by simpa using h c
      have htails (a : Nat) : Memory.find a m = Memory.find a m' := by
        by_cases ha : a = c
        · rw [ha, Memory.find_of_wfFrom_of_lt htail (Nat.lt_succ_self c),
            Memory.find_of_wfFrom_of_lt htail' (Nat.lt_succ_self c)]
        · rw [← Memory.find_cons_other v m ha, h a, Memory.find_cons_other v' m' ha]
      rw [hv, ih htail htail' htails]

end Canonical

/-- Settles O9: the reads determine the cells listed, and the cells rise. -/
theorem canonicalMemoriesAreDeterminedByTheirReads : Obligations.CanonicalMemoriesAreDeterminedByTheirReads :=
  fun _ _ _ hm hm' h => Memory.eq_of_find_eq hm hm' fun a => Memory.find_eq_of_read_eq hm hm' (h a)

end Sys2Proof.Machine
end

section
/-! SUPPORT. Single instructions: Call undone by Return (spec/90_conflicts.md C2), the two shift modes (C12), the index
register and memory (spec/43_memory_index.md R181 to R185), random, timers and keys (spec/45_timers_random_keys.md R230
to R236). Settles O32, O39, O41 to O44 and O53 to O56. -/

namespace Sys2Proof.Machine

/-! ### Call and Return -/

/-- Return pops the slot Call pushed, whatever `pc` was in between. -/
theorem exec_ret_after_call {s : State} (h : s.sp.val < 16) (nnn : Addr12) (p : Addr) :
    ∃ t, exec (.call nnn) s = .next t ∧
      exec .ret (t.setPc p) = .next { s with stack := s.stack.set s.sp.val s.pc h } := by
  refine ⟨_, exec_call_of_not_full h nnn, (exec_ret_of_nonempty (Nat.succ_pos _)).trans ?_⟩
  have hslot : (s.stack.set s.sp.val s.pc h)[s.sp.val] = s.pc := Vector.getElem_set_self h
  exact congrArg (fun a => Host.Outcome.next { s with pc := a, stack := s.stack.set s.sp.val s.pc h }) hslot

/-- Settles O32: of the pair only the slot Call wrote remains. -/
theorem returnUndoesCall : Obligations.ReturnUndoesCall := by
  intro nnn s p h
  obtain ⟨t, hcall, hret⟩ := exec_ret_after_call h nnn p
  exact ⟨t, _, hcall, hret, rfl, rfl, rfl, fun k hk => Vector.getElem_set_ne h k.isLt hk.symm, fun _ => rfl⟩

/-! ### The two shift modes -/

/-- Half and parity determine a byte, and so do its double modulo 256 and its top bit. -/
theorem byte_eq_iff_half_and_parity (a b : Byte) :
    (a.toNat / 2 = b.toNat / 2 ∧ a.toNat % 2 = b.toNat % 2) ↔ a = b := by
  rw [BitVec.toNat_eq]
  omega

theorem byte_eq_iff_double_and_top (a b : Byte) :
    (2 * a.toNat % 256 = 2 * b.toNat % 256 ∧ a.toNat / 128 = b.toNat / 128) ↔ a = b := by
  have := a.isLt
  have := b.isLt
  rw [BitVec.toNat_eq]
  omega

/-- Settles O39: result and flag together determine the operand shifted, and the modes differ in the operand alone. -/
theorem shiftModesAgreeExactlyOnEqualValues : Obligations.ShiftModesAgreeExactlyOnEqualValues := by
  intro x y s hx
  obtain ⟨a, ha, ha_result, ha_flag⟩ := exec_shiftRight_values x y (s.withQuirk .standard)
  obtain ⟨b, hb, hb_result, hb_flag⟩ := exec_shiftRight_values x y (s.withQuirk .legacy)
  obtain ⟨c, hc, hc_result, hc_flag⟩ := exec_shiftLeft_values x y (s.withQuirk .standard)
  obtain ⟨d, hd, hd_result, hd_flag⟩ := exec_shiftLeft_values x y (s.withQuirk .legacy)
  refine ⟨a, b, c, d, ha, hb, hc, hd, ?_, ?_⟩
  · rw [BitVec.toNat_eq, BitVec.toNat_eq, ha_result hx, hb_result hx, ha_flag, hb_flag]
    exact byte_eq_iff_half_and_parity _ _
  · rw [BitVec.toNat_eq, BitVec.toNat_eq, hc_result hx, hd_result hx, hc_flag, hd_flag]
    exact byte_eq_iff_double_and_top _ _

/-! ### The index register (R181, R182) -/

theorem toNat_idx_add_addrOfByte {a : Addr} {v : Byte} (h : a.toNat + v.toNat ≤ 0xFFFF) :
    (a + addrOfByte v).toNat = a.toNat + v.toNat := by
  rw [BitVec.toNat_add, toNat_addrOfByte, Nat.mod_eq_of_lt (by omega)]

theorem toNat_glyphAddr (g : Nibble) : (glyphAddr g).toNat = 0x50 + 5 * g.toNat := by
  have := g.isLt
  rw [glyphAddr, BitVec.toNat_add, BitVec.toNat_mul, BitVec.toNat_setWidth]
  show (0x50 + 5 * (g.toNat % 65536) % 65536) % 65536 = 0x50 + 5 * g.toNat
  omega

/-- An instruction that raises a fault does nothing else. -/
theorem exec_onlyLatches {s : State} {i : Instr} {c : FaultCause} (h : s.faultOf i = some c) :
    ∃ t, exec i s = .next t ∧ OnlyLatches c s t :=
  ⟨_, exec_of_fault h, s.onlyLatches_raiseBy i c⟩

/-- Settles O41: the sum fits or the instruction raises its fault; a glyph address fits for every register value. -/
theorem addIndexAndFontChar : Obligations.AddIndexAndFontChar := by
  refine fun x s => ⟨fun h => ?_, fun h => exec_onlyLatches (if_pos h), ?_⟩
  · exact ⟨_, exec_of_no_fault (if_neg (Nat.not_lt.mpr h)), toNat_idx_add_addrOfByte h, s.onlyIndex_setIndex _⟩
  · exact ⟨_, rfl, by rw [State.setIndex_idx, toNat_glyphAddr, toNat_lowNibble], s.onlyIndex_setIndex _⟩

/-! ### Stores and loads (R183 to R185) -/

/-- The frame of a run of bytes written. -/
theorem State.onlyBytes_writeList (s : State) (base : Nat) (bs : List Byte) :
    OnlyBytes base bs.length s { s with mem := s.mem.writeList s.cfg.font base bs } :=
  ⟨rfl, fun _ => rfl, fun _ h => Memory.read_writeList_outside s.mem h⟩

/-- Byte `k` of a run written is read back at `base + k`. -/
theorem Memory.read_writeList_inside {font : Vector Byte 80} (m : Memory) (base : Nat) {bs : List Byte} {k : Nat}
    {b : Byte} (h : bs[k]? = some b) : (m.writeList font base bs).read font (base + k) = b := by
  rw [Memory.read_writeList, if_pos (Nat.le_add_right _ _), Nat.add_sub_cancel_left, h, Option.getD_some]

/-- Settles O42: the three digits are the bytes written. -/
theorem storeBcdWritesThreeDigits : Obligations.StoreBcdWritesThreeDigits := by
  refine fun x s => ⟨fun h => ?_, fun h => exec_onlyLatches (if_pos h)⟩
  have hv := (s.reg x).isLt
  have digit {k n : Nat} (hn : n < 256) (hk : (bcdDigits (s.reg x))[k]? = some (BitVec.ofNat 8 n)) :
      ((s.complete (.storeBcd x)).byteAt (s.base + k)).toNat = n :=
    (congrArg BitVec.toNat (Memory.read_writeList_inside s.mem s.base hk)).trans
      ((BitVec.toNat_ofNat _ _).trans (Nat.mod_eq_of_lt hn))
  exact ⟨_, exec_of_no_fault (if_neg (Nat.not_lt.mpr h)), digit (k := 0) (by omega) rfl, digit (by omega) rfl,
    digit (by omega) rfl, s.onlyBytes_writeList s.base _⟩

/-- Settles O43: entry r of the run written is register r. -/
theorem storeRegsStoresZeroToX : Obligations.StoreRegsStoresZeroToX := by
  refine fun x s => ⟨fun h => ?_, fun h => exec_onlyLatches (if_pos h)⟩
  refine ⟨_, exec_of_no_fault (if_neg (Nat.not_lt.mpr h)), fun r hr => ?_, ?_⟩
  · refine Memory.read_writeList_inside s.mem s.base ?_
    rw [State.getElem?_regsUpTo s x _ hr, BitVec.ofNat_toNat, BitVec.setWidth_eq]
  · exact s.length_regsUpTo x ▸ s.onlyBytes_writeList s.base (s.regsUpTo x)

theorem State.reg_complete_loadRegs (s : State) (x r : RegId) :
    (s.complete (.loadRegs x)).reg r = if r.toNat ≤ x.toNat then s.byteAt (s.base + r.toNat) else s.reg r :=
  Vector.getElem_ofFn r.isLt

/-- Settles O44: the registers up to X are the bytes from `I`, the others are outside the frame. -/
theorem loadRegsLoadsZeroToX : Obligations.LoadRegsLoadsZeroToX := by
  refine fun x s => ⟨fun h => ?_, fun h => exec_onlyLatches (if_pos h)⟩
  refine ⟨_, exec_of_no_fault (if_neg (Nat.not_lt.mpr h)), fun r hr => ?_, rfl, fun r hr => ?_, fun _ => rfl⟩
  · rw [State.reg_complete_loadRegs, if_pos hr]
  · rw [State.reg_complete_loadRegs, if_neg hr]

/-! ### Random, timers (R230 to R233) -/

/-- Settles O53: the mask bit by bit, in one write to the register X and one of the strobe. -/
theorem randomMasksThePresentedByte : Obligations.RandomMasksThePresentedByte := by
  refine fun x nn s => ⟨_, rfl, fun k => ?_, rfl, rfl, fun r hr => s.reg_setReg_other _ hr, fun _ => rfl⟩
  show ((s.setReg x (s.rnd &&& nn)).reg x).getLsbD k = _
  rw [State.reg_setReg_same, BitVec.getLsbD_and]

theorem State.beep_iff (s : State) : s.beep = true ↔ s.st.toNat ≠ 0 := by
  rw [State.beep, decide_eq_true_iff, Ne, BitVec.toNat_eq]
  rfl

/-- Settles O54: each of the three is one write. -/
theorem timerInstructionsMoveOneByte : Obligations.TimerInstructionsMoveOneByte := fun x s =>
  ⟨⟨_, rfl, s.reg_setReg_same x s.dt, s.onlyRegs_setReg x _⟩,
    ⟨_, rfl, rfl, rfl, fun _ => rfl, fun _ => rfl⟩,
    ⟨_, rfl, rfl, rfl, State.beep_iff _, fun _ => rfl, fun _ => rfl⟩⟩

/-! ### Keys (R234 to R236) -/

theorem State.keyDown_lowNibble (s : State) (v : Byte) : s.keyDown (lowNibble v) = s.keys.getLsbD (v.toNat % 16) := by
  rw [State.keyDown, toNat_lowNibble]

/-- Settles O55: each is one conditional skip, on the key or on its negation. -/
theorem keySkipsTestTheLowNibbleKey : Obligations.KeySkipsTestTheLowNibbleKey := fun x s =>
  ⟨⟨_, rfl, s.onlyPc_skipIf _, by rw [State.pc_skipIf, State.keyDown_lowNibble]⟩,
    ⟨_, rfl, s.onlyPc_skipIf _, by rw [State.pc_skipIf_not, State.keyDown_lowNibble]⟩⟩

/-- The lowest key is down, and no key below it is. -/
theorem State.lowestKey_eq_some_iff (s : State) (k : Nat) :
    s.lowestKey = some k ↔ s.keys.getLsbD k = true ∧ k < 16 ∧ ∀ j, j < k → s.keys.getLsbD j = false := by
  simp [State.lowestKey, List.find?_range_eq_some]

theorem exec_waitKey_of_lowestKey {s : State} {k : Nat} (h : s.lowestKey = some k) (x : RegId) :
    exec (.waitKey x) s = .next (s.setReg x (BitVec.ofNat 8 k)) := by
  rw [exec, execWaitKey, h]

/-- Settles O56: with no key down the search for the lowest key fails; otherwise it answers it. -/
theorem waitKeyRepeatsOrTakesTheLowestKey : Obligations.WaitKeyRepeatsOrTakesTheLowestKey := by
  refine fun x s => ⟨fun hkeys => ?_, fun hkeys => ?_⟩
  · have hexec : exec (.waitKey x) s = .next (s.setPc (s.pc - 2)) := by
      rw [exec, execWaitKey, s.lowestKey_eq_none_iff.mpr hkeys]
    exact ⟨_, hexec, rfl, s.onlyPc_setPc _⟩
  · obtain ⟨k, hk⟩ := Option.ne_none_iff_exists'.mp (mt s.lowestKey_eq_none_iff.mp hkeys)
    obtain ⟨hdown, hlt, hlower⟩ := (s.lowestKey_eq_some_iff k).mp hk
    refine ⟨_, k, exec_waitKey_of_lowestKey hk x, hlt, hdown, hlower, ?_, s.onlyRegs_setReg x _⟩
    rw [State.reg_setReg_same, BitVec.toNat_ofNat]
    omega

end Sys2Proof.Machine
end

section
/-! SUPPORT. The framebuffer pixel by pixel (spec/44_display.md R200 to R212): the bits of the two masks, one row
written, the rows of a sprite. Settles O46 to O52. -/

namespace Sys2Proof.Machine

/-! ### The bits of the masks (R201, R202) -/

theorem getLsbD_pixelMask (x : Nat) {col : Nat} (h : col < 64) :
    (pixelMask x).getLsbD (63 - colOf col) = decide (x % 64 = col) := by
  have hx : x % 64 < 64 := Nat.mod_lt _ (by decide)
  have hcol : colOf col = col := Nat.mod_eq_of_lt h
  have hone (k : Nat) : (1 : RowMask).getLsbD k = decide (k = 0) := BitVec.getLsbD_one
  rw [pixelMask, BitVec.getLsbD_shiftLeft, hcol, colOf, hone, Bool.eq_iff_iff]
  simp only [Bool.and_eq_true, decide_eq_true_eq, Bool.not_eq_true', decide_eq_false_iff_not]
  omega

/-- Bit 7 of the pattern lies on column `x mod 64`, and the bits past column 63 are dropped. -/
theorem getLsbD_patternMask (p : Byte) (x : Nat) {col : Nat} (h : col < 64) :
    (patternMask p x).getLsbD (63 - colOf col) = patternCovers p x col := by
  have hcol : colOf col = col := Nat.mod_eq_of_lt h
  rw [patternMask, BitVec.getLsbD_ushiftRight, BitVec.getLsbD_shiftLeft, BitVec.getLsbD_setWidth, hcol, colOf,
    patternCovers]
  by_cases hin : x % 64 ≤ col ∧ col ≤ x % 64 + 7
  · have hbit : x % 64 + (63 - col) - 56 = 7 - (col - x % 64) := by omega
    have hhigh : x % 64 + (63 - col) < 64 := by omega
    have hlow : ¬ x % 64 + (63 - col) < 56 := by omega
    have hwidth : 7 - (col - x % 64) < 64 := by omega
    simp [hbit, hin, hhigh, hlow, hwidth]
  · have hout : ¬ x % 64 + (63 - col) < 64 ∨ x % 64 + (63 - col) < 56 := by omega
    rcases hout with hout | hout <;> simp [hin, hout]

theorem patternCovers_eq_true_iff (p : Byte) (x col : Nat) :
    patternCovers p x col = true ↔ ∃ k, k ≤ 7 ∧ x % 64 + k = col ∧ p.getLsbD (7 - k) = true := by
  rw [patternCovers, Bool.and_eq_true, decide_eq_true_iff]
  constructor
  · rintro ⟨⟨hlow, hhigh⟩, hbit⟩
    exact ⟨col - x % 64, by omega, by omega, hbit⟩
  · rintro ⟨k, hk, rfl, hbit⟩
    exact ⟨⟨by omega, by omega⟩, by rwa [Nat.add_sub_cancel_left]⟩

/-! ### One row written -/

/-- A pixel is determined modulo 64 and 32 (R200). -/
theorem Screen.getPixel_mod (scr : Screen) (x y : Nat) : scr.getPixel (x % 64) (y % 32) = scr.getPixel x y := by
  simp only [Screen.getPixel, Screen.rowAt, colOf, Nat.mod_mod]

theorem Screen.getPixel_of_mod_eq (scr : Screen) (x : Nat) {y row : Nat} (h : y % 32 = row) :
    scr.getPixel x y = scr.getPixel x row := by
  subst h
  simp only [Screen.getPixel, Screen.rowAt, Nat.mod_mod]

theorem Screen.getPixel_putRow (scr : Screen) (y : Nat) (v : RowMask) (col : Nat) {row : Nat} (h : row < 32) :
    (scr.putRow y v).getPixel col row =
      if y % 32 = row then v.getLsbD (63 - colOf col) else scr.getPixel col row := by
  rw [Screen.getPixel, Screen.rowAt_putRow, Nat.mod_eq_of_lt h]
  by_cases hrow : y % 32 = row
  · rw [if_pos hrow.symm, if_pos hrow]
  · rw [if_neg (Ne.symm hrow), if_neg hrow]
    rfl

/-- A row combined with a mask by an operation that a clear mask bit leaves alone: one pixel, before and after. -/
theorem Screen.getPixel_putRow_op (scr : Screen) (y : Nat) {v : RowMask} {col row : Nat} (hrow : row < 32)
    {m : Bool} (op : Bool → Bool → Bool) (hop : ∀ b, op b false = b)
    (hv : v.getLsbD (63 - colOf col) = op (scr.getPixel col y) m) :
    (scr.putRow y v).getPixel col row = op (scr.getPixel col row) (decide (y % 32 = row) && m) := by
  rw [Screen.getPixel_putRow _ _ _ _ hrow]
  split
  case isTrue h => rw [hv, scr.getPixel_of_mod_eq col h, decide_eq_true h, Bool.true_and]
  case isFalse h => rw [decide_eq_false h, Bool.false_and, hop]

section Masks

variable (scr : Screen) (y : Nat) {mask : RowMask} {m : Bool} {col row : Nat} (hrow : row < 32)
  (hm : mask.getLsbD (63 - colOf col) = m)

include hrow hm

/-- Set, clear and flip under a mask (R202 to R204). -/
theorem Screen.getPixel_putRow_or :
    (scr.putRow y (scr.rowAt y ||| mask)).getPixel col row =
      (scr.getPixel col row || (decide (y % 32 = row) && m)) :=
  scr.getPixel_putRow_op y hrow (· || ·) Bool.or_false (by rw [BitVec.getLsbD_or, hm, Screen.getPixel])

theorem Screen.getPixel_putRow_and_not :
    (scr.putRow y (scr.rowAt y &&& ~~~mask)).getPixel col row =
      (scr.getPixel col row && !(decide (y % 32 = row) && m)) := by
  have hbit : 63 - colOf col < 64 := by omega
  exact scr.getPixel_putRow_op y hrow (fun b m => b && !m) Bool.and_true
    (by rw [BitVec.getLsbD_and, BitVec.getLsbD_not, hm, decide_eq_true hbit, Bool.true_and, Screen.getPixel])

theorem Screen.getPixel_putRow_xor :
    (scr.putRow y (scr.rowAt y ^^^ mask)).getPixel col row =
      (scr.getPixel col row != (decide (y % 32 = row) && m)) :=
  scr.getPixel_putRow_op y hrow bne Bool.bne_false (by rw [BitVec.getLsbD_xor, hm, Screen.getPixel])

end Masks

/-- Settles O50: the mask of one pixel has one bit. -/
theorem pixelPrimitivesActOnOnePixel : Obligations.PixelPrimitivesActOnOnePixel := by
  intro scr x y col row hcol hrow
  have hm := getLsbD_pixelMask x hcol
  rw [Bool.decide_and, Bool.and_comm]
  exact ⟨scr.getPixel_putRow_or y hrow hm, scr.getPixel_putRow_and_not y hrow hm, scr.getPixel_putRow_xor y hrow hm,
    rfl, rfl, rfl⟩

/-- The collision bit of one row (R204). -/
theorem Screen.collides_iff (scr : Screen) (p : Byte) (x y : Nat) :
    scr.collides p x y = true ↔ ∃ c, c < 64 ∧ scr.getPixel c y = true ∧ patternCovers p x c = true := by
  have hclear (k : Nat) : (0 : RowMask).getLsbD k = false := BitVec.getLsbD_zero
  rw [Screen.collides, decide_eq_true_iff]
  constructor
  · intro hne
    by_contra hno
    refine hne (BitVec.eq_of_getLsbD_eq fun k hk => ?_)
    have hc : 63 - k < 64 := by omega
    have hk' : k = 63 - colOf (63 - k) := by
      rw [colOf]
      omega
    rw [BitVec.getLsbD_and, hclear, hk', getLsbD_patternMask p x hc, Bool.and_eq_false_iff]
    by_contra hboth
    rw [not_or, Bool.not_eq_false, Bool.not_eq_false] at hboth
    exact hno ⟨63 - k, hc, hboth⟩
  · rintro ⟨c, hc, hpixel, hcover⟩ hzero
    have hbit := congrArg (fun v => v.getLsbD (63 - colOf c)) hzero
    rw [BitVec.getLsbD_and, getLsbD_patternMask p x hc, hcover, Bool.and_true, hclear] at hbit
    exact Bool.false_ne_true (hbit.symm.trans hpixel)

theorem Screen.getLsbD_getVectored (scr : Screen) (x y : Nat) {k : Nat} (hk : k ≤ 7) :
    (scr.getVectored x y).getLsbD (7 - k) =
      (decide (x % 64 + k ≤ 63) && scr.getPixel (x % 64 + k) y) := by
  rw [Screen.getVectored, BitVec.getLsbD_setWidth, BitVec.getLsbD_ushiftRight, BitVec.getLsbD_shiftLeft, colOf,
    Screen.getPixel, colOf]
  by_cases hin : x % 64 + k ≤ 63
  · have hbit : 56 + (7 - k) - x % 64 = 63 - (x % 64 + k) % 64 := by omega
    have hlow : ¬ 56 + (7 - k) < x % 64 := by omega
    have hhigh : 56 + (7 - k) < 64 := by omega
    have hwidth : 7 - k < 8 := by omega
    simp [hin, hbit, hlow, hhigh, hwidth]
  · have hlow : 56 + (7 - k) < x % 64 := by omega
    simp [hin, hlow]

/-- Settles O51: the mask of a pattern covers the columns it should; collision and read-back by their lemmas. -/
theorem vectoredPrimitivesActOnOneRow : Obligations.VectoredPrimitivesActOnOneRow := by
  intro scr p x y col row hcol hrow
  have hm := getLsbD_patternMask p x hcol
  exact ⟨scr.getPixel_putRow_or y hrow hm, scr.getPixel_putRow_and_not y hrow hm, scr.getPixel_putRow_xor y hrow hm,
    scr.collides_iff p x y, rfl, rfl, rfl, fun _ => scr.getLsbD_getVectored x y⟩

/-! ### The read-out (R209) -/

/-- Entry `m * k + x` of chunks of length `m` is entry `x` of chunk `k`. -/
theorem getElem?_flatMap_of_length {α β : Type} {f : α → List β} {m : Nat} (hf : ∀ a, (f a).length = m) (l : List α)
    (k : Nat) {x : Nat} (hx : x < m) : (l.flatMap f)[m * k + x]? = l[k]?.bind fun a => (f a)[x]? := by
  induction l generalizing k with
  | nil => rfl
  | cons a l ih =>
    rw [List.flatMap_cons]
    cases k with
    | zero =>
      rw [Nat.mul_zero, Nat.zero_add, List.getElem?_append_left (by rw [hf]; exact hx)]
      rfl
    | succ k =>
      have hskip : m * (k + 1) + x = (f a).length + (m * k + x) := by
        rw [hf, Nat.mul_succ]
        omega
      rw [hskip, List.getElem?_append_right (Nat.le_add_right _ _), Nat.add_sub_cancel_left, ih]
      rfl

/-- Settles O52: the read-out is 32 chunks of 64 entries. -/
theorem readOutIsRowMajor : Obligations.ReadOutIsRowMajor := by
  intro scr
  refine ⟨by simp [Screen.scan, List.length_flatMap], fun x y hx hy => ?_⟩
  rw [Screen.scan, getElem?_flatMap_of_length (fun y => by rw [List.length_map, List.length_range]) _ _ hx,
    List.getElem?_range hy, Option.bind_some, List.getElem?_map, List.getElem?_range hx]
  rfl

/-! ### The rows of a sprite (R211, R212) -/

/-- Some row of a sprite drawn from column `x` and row `y` has a set, untruncated bit on (col, row). -/
def rowsCover (x : Nat) : Nat → List Byte → Nat → Nat → Bool
  | _, [], _, _ => false
  | y, p :: ps, col, row => (decide (y % 32 = row) && patternCovers p x col) || rowsCover x (y + 1) ps col row

theorem rowsCover_eq_true_iff (x y : Nat) (ps : List Byte) (col row : Nat) :
    rowsCover x y ps col row = true ↔
      ∃ r p, ps[r]? = some p ∧ (y + r) % 32 = row ∧ patternCovers p x col = true := by
  induction ps generalizing y with
  | nil => simp [rowsCover]
  | cons p ps ih =>
    rw [rowsCover, Bool.or_eq_true, Bool.and_eq_true, decide_eq_true_iff, ih]
    constructor
    · rintro (⟨hrow, hcover⟩ | ⟨r, q, hq, hrow, hcover⟩)
      · exact ⟨0, p, rfl, hrow, hcover⟩
      · exact ⟨r + 1, q, hq, by rwa [Nat.add_assoc, Nat.add_comm 1] at hrow, hcover⟩
    · rintro ⟨_ | r, q, hq, hrow, hcover⟩
      · exact Or.inl ⟨hrow, Option.some.inj hq ▸ hcover⟩
      · exact Or.inr ⟨r, q, hq, by rwa [Nat.add_assoc, Nat.add_comm 1], hcover⟩

/-- At most 32 rows are drawn, so the rows below the first do not reach its row again. -/
theorem mod_ne_of_rowsCover_succ {x y : Nat} {ps : List Byte} {col row : Nat} (hlen : ps.length < 32)
    (h : rowsCover x (y + 1) ps col row = true) : y % 32 ≠ row := by
  obtain ⟨r, p, hp, hrow, -⟩ := (rowsCover_eq_true_iff x (y + 1) ps col row).mp h
  have hr : r < ps.length := (List.getElem?_eq_some_iff.mp hp).1
  omega

theorem Screen.getPixel_flipVectored (scr : Screen) (p : Byte) (x y : Nat) {col row : Nat} (hcol : col < 64)
    (hrow : row < 32) :
    (scr.flipVectored p x y).2.getPixel col row =
      (scr.getPixel col row != (decide (y % 32 = row) && patternCovers p x col)) :=
  scr.getPixel_putRow_xor y hrow (getLsbD_patternMask p x hcol)

/-- A sprite of at most 32 rows flips the pixels it covers, each once. -/
theorem Screen.getPixel_drawRows (scr : Screen) (x y : Nat) {ps : List Byte} (hlen : ps.length ≤ 32) {col row : Nat}
    (hcol : col < 64) (hrow : row < 32) :
    (scr.drawRows x y ps).2.getPixel col row = (scr.getPixel col row != rowsCover x y ps col row) := by
  induction ps generalizing scr y with
  | nil => exact (Bool.bne_false _).symm
  | cons p ps ih =>
    have htail : ps.length < 32 := hlen
    rw [Screen.drawRows_cons, ih _ _ htail.le, Screen.getPixel_flipVectored _ _ _ _ hcol hrow, rowsCover]
    cases hcover : rowsCover x (y + 1) ps col row with
    | false => rw [Bool.bne_false, Bool.or_false]
    | true =>
      rw [decide_eq_false (mod_ne_of_rowsCover_succ htail hcover), Bool.false_and, Bool.bne_false, Bool.false_or]

/-- The collision bit of a sprite: some pixel it covers was set before, wherever in the order of the rows. -/
theorem Screen.fst_drawRows_iff (scr : Screen) (x y : Nat) {ps : List Byte} (hlen : ps.length ≤ 32) :
    (scr.drawRows x y ps).1 = true ↔
      ∃ col row, col < 64 ∧ row < 32 ∧ scr.getPixel col row = true ∧ rowsCover x y ps col row = true := by
  induction ps generalizing scr y with
  | nil => simp [rowsCover]
  | cons p ps ih =>
    have htail : ps.length < 32 := hlen
    have unflipped {col row : Nat} (hcol : col < 64) (hrow : row < 32) (h : rowsCover x (y + 1) ps col row = true) :
        (scr.flipVectored p x y).2.getPixel col row = scr.getPixel col row := by
      rw [Screen.getPixel_flipVectored _ _ _ _ hcol hrow, decide_eq_false (mod_ne_of_rowsCover_succ htail h),
        Bool.false_and, Bool.bne_false]
    rw [Screen.drawRows_cons, Bool.or_eq_true, ih _ _ htail.le, Screen.collides_iff]
    constructor
    · rintro (⟨c, hc, hpixel, hcover⟩ | ⟨col, row, hcol, hrow, hpixel, hcover⟩)
      · refine ⟨c, y % 32, hc, Nat.mod_lt _ (by decide), scr.getPixel_of_mod_eq c rfl ▸ hpixel, ?_⟩
        rw [rowsCover, hcover, decide_eq_true rfl, Bool.and_true, Bool.true_or]
      · refine ⟨col, row, hcol, hrow, (unflipped hcol hrow hcover).symm.trans hpixel, ?_⟩
        rw [rowsCover, hcover, Bool.or_true]
    · rintro ⟨col, row, hcol, hrow, hpixel, hcover⟩
      rw [rowsCover, Bool.or_eq_true, Bool.and_eq_true, decide_eq_true_iff] at hcover
      rcases hcover with ⟨hy, hcover⟩ | hcover
      · exact Or.inl ⟨col, hcol, (scr.getPixel_of_mod_eq col hy).trans hpixel, hcover⟩
      · exact Or.inr ⟨col, row, hcol, hrow, (unflipped hcol hrow hcover).trans hpixel, hcover⟩

/-! ### Draw -/

section Draw

variable (s : State) (x y : RegId) (n : Nibble)

theorem State.length_sprite_le : (s.sprite n).length ≤ 32 := by
  have := n.isLt
  rw [State.sprite, Memory.length_readList]
  omega

/-- The pixels the sprite of a Draw covers, as the statements say it. -/
theorem State.rowsCover_sprite_iff (cx cy col row : Nat) :
    rowsCover cx cy (s.sprite n) col row = true ↔ s.SpriteCovers cx cy n.toNat col row := by
  rw [rowsCover_eq_true_iff]
  constructor
  · rintro ⟨r, p, hp, hrow, hcover⟩
    have hr : r < n.toNat := by
      simpa [State.sprite] using (List.getElem?_eq_some_iff.mp hp).1
    rw [State.sprite, Memory.getElem?_readList _ _ _ _ hr] at hp
    obtain ⟨k, hk, hcol, hbit⟩ := (patternCovers_eq_true_iff p cx col).mp hcover
    obtain rfl := Option.some.inj hp
    exact ⟨r, k, hr, hk, hcol, hrow, hbit⟩
  · rintro ⟨r, k, hr, hk, hcol, hrow, hbit⟩
    have hcover := (patternCovers_eq_true_iff _ cx col).mpr ⟨k, hk, hcol, hbit⟩
    exact ⟨r, _, Memory.getElem?_readList _ _ _ _ hr, hrow, hcover⟩

theorem State.faultOf_draw_in_range (h : n = 0 ∨ s.base + n.toNat - 1 ≤ 4095) :
    s.faultOf (.draw x y n) = none :=
  (s.faultOf_draw_eq_none_iff x y n).mpr h.resolve_left

/-- A pixel after a Draw that completes, at any coordinates below 64 and 32. -/
theorem State.pixel_complete_draw {col row : Nat} (hcol : col < 64) (hrow : row < 32) :
    (s.complete (.draw x y n)).pixel col row =
      (s.pixel col row != rowsCover (s.reg x).toNat (s.reg y).toNat (s.sprite n) col row) :=
  s.screen.getPixel_drawRows _ _ (s.length_sprite_le n) hcol hrow

end Draw

/-- Settles O46: the sprite's pixels by `getPixel_drawRows`, the rest by the frame of an instruction that completes. -/
theorem drawFlipsExactlyTheSpritePixels : Obligations.DrawFlipsExactlyTheSpritePixels := by
  intro x y n s h
  refine ⟨_, exec_of_no_fault (s.faultOf_draw_in_range x y n h), rfl, fun r hr => s.reg_setReg_other _ hr,
    fun _ => rfl, ?_, fun col row hcol hrow => ?_⟩
  · show (s.drawn x y n).2.changed = true ↔ _
    rw [State.drawn, Screen.changed_drawRows, State.isEmpty_sprite, Bool.or_eq_true, Bool.not_eq_true',
      decide_eq_false_iff_not]
    rfl
  · rw [State.pixel_complete_draw _ _ _ _ hcol hrow, ← State.rowsCover_sprite_iff, bne_iff_ne, Ne, Bool.eq_iff_iff]

theorem flagOf_eq_one_iff (c : Bool) : flagOf c = 1 ↔ c = true := by
  cases c <;> decide

/-- Settles O47: register 15 is the collision bit of the sprite. -/
theorem drawCollisionFlag : Obligations.DrawCollisionFlag := by
  intro x y n s h
  have hflag : (s.complete (.draw x y n)).reg 15 = flagOf (s.drawn x y n).1 := s.reg_setReg_same _ _
  refine ⟨_, exec_of_no_fault (s.faultOf_draw_in_range x y n h), hflag ▸ flagOf_eq_zero_or_one _, ?_⟩
  rw [hflag, flagOf_eq_one_iff, State.drawn, Screen.fst_drawRows_iff _ _ _ (s.length_sprite_le n)]
  simp only [State.rowsCover_sprite_iff]
  rfl

/-- Settles O48: an instruction that raises its fault writes the latch alone. -/
theorem drawOutOfRangeChangesNothing : Obligations.DrawOutOfRangeChangesNothing := fun _ _ _ s hn h =>
  ⟨_, exec_of_fault (if_pos ⟨hn, h⟩), s.onlyLatches_raiseBy _ _, rfl, rfl⟩

/-- The second Draw reads the same registers and sprite, so it flips the same pixels back. -/
theorem State.pixel_complete_draw_twice (s : State) (x y : RegId) (n : Nibble) (col row : Nat) :
    ({ s.complete (.draw x y n) with x := s.x }.complete (.draw x y n)).pixel col row = s.pixel col row := by
  have hcol : col % 64 < 64 := Nat.mod_lt _ (by decide)
  have hrow : row % 32 < 32 := Nat.mod_lt _ (by decide)
  rw [State.pixel, ← Screen.getPixel_mod, State.pixel, ← s.screen.getPixel_mod]
  calc ({ s.complete (.draw x y n) with x := s.x }.complete (.draw x y n)).pixel (col % 64) (row % 32)
      = ((s.complete (.draw x y n)).pixel (col % 64) (row % 32) !=
          rowsCover (s.reg x).toNat (s.reg y).toNat (s.sprite n) (col % 64) (row % 32)) :=
        State.pixel_complete_draw _ x y n hcol hrow
    _ = s.pixel (col % 64) (row % 32) := by
        rw [s.pixel_complete_draw x y n hcol hrow, Bool.bne_assoc, bne_self_eq_false, Bool.bne_false]

/-- Settles O49: neither Draw faults, and the two are those of the lemma. -/
theorem drawTwiceRestoresThePicture : Obligations.DrawTwiceRestoresThePicture := by
  intro x y n s h
  have hfault := s.faultOf_draw_in_range x y n h
  exact ⟨_, _, exec_of_no_fault hfault, exec_of_no_fault hfault, s.pixel_complete_draw_twice x y n⟩

end Sys2Proof.Machine
end
